-- ==== Sys2Proof/Word.lean ====
section
/-! DEFINITION. The plain types the whole model names: bytes, command and result words (spec rules R7, R71, R80),
and the fixed sets of names the rules use for fields, sequencer operations, transport requests and answers, and days. -/

namespace Sys2Proof

/-- A register byte, a transport datum, a snapshot register, the codec's operand and result: 8 bits, unsigned
(R7, R9, R20, R75). -/
abbrev Byte := BitVec 8

/-- A command word `CW` (R71): 16 bits. -/
abbrev CmdWord := BitVec 16

/-- A result word `RW` (R80): 16 bits. -/
abbrev ResultWord := BitVec 16

/-- The seven time fields, in index order (R10). -/
inductive Field where
  | sec | min | hr | wd | dt | mon | yr
deriving DecidableEq, Repr, Inhabited

/-- `SEQ.op` (R29): the kind of command in progress. -/
inductive SeqOp where
  | rd | wr | gett | sett | init
deriving DecidableEq, Repr, Inhabited

/-- The kind of a transport request (R41). -/
inductive ReqKind where
  | read | write
deriving DecidableEq, Repr, Inhabited

/-- The outcome of a transport response (R42). The code 3 is never sent, so it has no name. -/
inductive TransportOutcome where
  | success | failure | timeout
deriving DecidableEq, Repr, Inhabited

/-- The cause a TransportFailure records (R251): an outcome that is not SUCCESS. -/
inductive Cause where
  | failure | timeout
deriving DecidableEq, Repr, Inhabited

/-- The seven days in the document's order (R24). -/
inductive Weekday where
  | monday | tuesday | wednesday | thursday | friday | saturday | sunday
deriving DecidableEq, Repr, Inhabited

/-- The exceptions of the block: R250 to R253, "three synchronous exceptions and nothing else". -/
inductive BlockException where
  | transportFailure (f : Field) (c : Cause)
  | outOfRangeValue (f : Field)
  | illegalCommand
deriving DecidableEq, Repr

end Sys2Proof
end

