-- ==== Sys2Proof/Syntax.lean ====
section
/-! DEFINITION. The 40 commands, one constructor per row of spec/opcode_table.json (R73, R74), and the assembler line of
R83. A command's only operand is `imm8`, 8 bits by its type (R75). -/

namespace Sys2Proof

/-- The command set. The field a command works on is part of its name (R74); there is no register operand (R75). -/
inductive Instr where
  /-- `DEC` (R102). -/
  | dec (imm8 : Byte)
  /-- `ENC` (R103). -/
  | enc (imm8 : Byte)
  /-- `FDECSEC` (R133). -/
  | fdecsec (imm8 : Byte)
  /-- `FDECMIN` (R134). -/
  | fdecmin (imm8 : Byte)
  /-- `FDECHR` (R135). -/
  | fdechr (imm8 : Byte)
  /-- `FDECWD` (R136). -/
  | fdecwd (imm8 : Byte)
  /-- `FDECDT` (R137). -/
  | fdecdt (imm8 : Byte)
  /-- `FDECMON` (R138). -/
  | fdecmon (imm8 : Byte)
  /-- `FDECYR` (R139). -/
  | fdecyr (imm8 : Byte)
  /-- `FENCSEC` (R140). -/
  | fencsec (imm8 : Byte)
  /-- `FENCMIN` (R141). -/
  | fencmin (imm8 : Byte)
  /-- `FENCHR` (R142). -/
  | fenchr (imm8 : Byte)
  /-- `FENCWD` (R143). -/
  | fencwd (imm8 : Byte)
  /-- `FENCDT` (R144). -/
  | fencdt (imm8 : Byte)
  /-- `FENCMON` (R145). -/
  | fencmon (imm8 : Byte)
  /-- `FENCYR` (R146). -/
  | fencyr (imm8 : Byte)
  /-- `LDSEC` (R161). -/
  | ldsec (imm8 : Byte)
  /-- `LDMIN` (R162). -/
  | ldmin (imm8 : Byte)
  /-- `LDHR` (R163). -/
  | ldhr (imm8 : Byte)
  /-- `LDWD` (R164). -/
  | ldwd (imm8 : Byte)
  /-- `LDDT` (R165). -/
  | lddt (imm8 : Byte)
  /-- `LDMON` (R166). -/
  | ldmon (imm8 : Byte)
  /-- `LDYR` (R167). -/
  | ldyr (imm8 : Byte)
  /-- `RDSEC` (R181). -/
  | rdsec
  /-- `RDMIN` (R182). -/
  | rdmin
  /-- `RDHR` (R183). -/
  | rdhr
  /-- `RDWD` (R184). -/
  | rdwd
  /-- `RDDT` (R185). -/
  | rddt
  /-- `RDMON` (R186). -/
  | rdmon
  /-- `RDYR` (R187). -/
  | rdyr
  /-- `WRSEC` (R201). -/
  | wrsec
  /-- `WRMIN` (R202). -/
  | wrmin
  /-- `WRHR` (R203). -/
  | wrhr
  /-- `WRWD` (R204). -/
  | wrwd
  /-- `WRDT` (R205). -/
  | wrdt
  /-- `WRMON` (R206). -/
  | wrmon
  /-- `WRYR` (R207). -/
  | wryr
  /-- `GETT` (R222). -/
  | gett
  /-- `SETT` (R226). -/
  | sett
  /-- `INIT` (R240). -/
  | init
deriving DecidableEq, Repr

/-- The four formats of a command word (R72). -/
inductive Format where
  | i | fi | f | z
deriving DecidableEq, Repr

/-- One line of the notation of R83 after its characters are read: a mnemonic and, when the line gives one, a number. -/
structure AsmLine where
  mnemonic : String
  operand : Option Nat
deriving DecidableEq, Repr

end Sys2Proof
end

