-- ==== Sys2Proof/Decode.lean ====
section
/-! DEFINITION. The fields of a command word and the clauses of R77; the decoder of R76, total on the 65536 command words
and rejecting by those clauses; after it the encoder of R71 to R74; and the opcode table of R76's match and mask pairs. -/

namespace Sys2Proof

/-- `CW[15:12]` (R71). -/
def opField (w : CmdWord) : BitVec 4 := w.extractLsb' 12 4

/-- `CW[11:8]` (R71). -/
def fselField (w : CmdWord) : BitVec 4 := w.extractLsb' 8 4

/-- `CW[7:0]` (R71). -/
def immField (w : CmdWord) : Byte := w.extractLsb' 0 8

/-- R77, first clause: `op` is 0x0 or 0xB to 0xF. -/
def reservedOp (w : CmdWord) : Bool := opField w == 0x0#4 || 0xB#4 ≤ opField w

/-- R77, second clause: `op` is 0x1 or 0x2 and `fsel` is not 0. -/
def codecWithFsel (w : CmdWord) : Bool := (opField w == 0x1#4 || opField w == 0x2#4) && fselField w != 0#4

/-- R77, third clause: `op` is 0x3 to 0x7 and `fsel` is 7 to 15. -/
def fieldOutOfRange (w : CmdWord) : Bool := 0x3#4 ≤ opField w && opField w ≤ 0x7#4 && 7#4 ≤ fselField w

/-- R77, fourth clause: `op` is 0x6 or 0x7 and `imm8` is not 0. -/
def fieldCommandWithImm (w : CmdWord) : Bool := (opField w == 0x6#4 || opField w == 0x7#4) && immField w != 0#8

/-- R77, fifth clause: `op` is 0x8, 0x9 or 0xA and `fsel` or `imm8` is not 0. -/
def bareCommandWithFields (w : CmdWord) : Bool :=
  (opField w == 0x8#4 || opField w == 0x9#4 || opField w == 0xA#4) && (fselField w != 0#4 || immField w != 0#8)

/-- Why a word is illegal: the five clauses of R77, by name. -/
inductive Reject where
  | reservedOp | codecWithFsel | fieldOutOfRange | fieldCommandWithImm | bareCommandWithFields
deriving DecidableEq, Repr

/-- The field a selector names (R74): 0 to 6 in index order; 7 to 15 name none. -/
def fieldOfSel (n : BitVec 4) : Option Field :=
  match n.toNat with
  | 0 => some .sec
  | 1 => some .min
  | 2 => some .hr
  | 3 => some .wd
  | 4 => some .dt
  | 5 => some .mon
  | 6 => some .yr
  | _ => none

/-- The `FDECx` command of a field (R74). -/
def fdecOf (f : Field) (imm8 : Byte) : Instr :=
  match f with
  | .sec => .fdecsec imm8
  | .min => .fdecmin imm8
  | .hr => .fdechr imm8
  | .wd => .fdecwd imm8
  | .dt => .fdecdt imm8
  | .mon => .fdecmon imm8
  | .yr => .fdecyr imm8

/-- The `FENCx` command of a field (R74). -/
def fencOf (f : Field) (imm8 : Byte) : Instr :=
  match f with
  | .sec => .fencsec imm8
  | .min => .fencmin imm8
  | .hr => .fenchr imm8
  | .wd => .fencwd imm8
  | .dt => .fencdt imm8
  | .mon => .fencmon imm8
  | .yr => .fencyr imm8

/-- The `LDx` command of a field (R74). -/
def ldOf (f : Field) (imm8 : Byte) : Instr :=
  match f with
  | .sec => .ldsec imm8
  | .min => .ldmin imm8
  | .hr => .ldhr imm8
  | .wd => .ldwd imm8
  | .dt => .lddt imm8
  | .mon => .ldmon imm8
  | .yr => .ldyr imm8

/-- The `RDx` command of a field (R74). -/
def rdOf (f : Field) : Instr :=
  match f with
  | .sec => .rdsec
  | .min => .rdmin
  | .hr => .rdhr
  | .wd => .rdwd
  | .dt => .rddt
  | .mon => .rdmon
  | .yr => .rdyr

/-- The `WRx` command of a field (R74). -/
def wrOf (f : Field) : Instr :=
  match f with
  | .sec => .wrsec
  | .min => .wrmin
  | .hr => .wrhr
  | .wd => .wrwd
  | .dt => .wrdt
  | .mon => .wrmon
  | .yr => .wryr

/-- The name R77 gives to a word that no line of R76 takes. A word may break two clauses (a field command with `fsel` 7
and a non-zero `imm8`); the first in R77's order is named. -/
def rejectReason (w : CmdWord) : Reject :=
  if reservedOp w then .reservedOp
  else if codecWithFsel w then .codecWithFsel
  else if fieldOutOfRange w then .fieldOutOfRange
  else if fieldCommandWithImm w then .fieldCommandWithImm
  else .bareCommandWithFields

/-- The command a word with these three fields stands for, by the ten conditions of R76; none when no condition holds. -/
def decodeFields (op fsel : BitVec 4) (imm8 : Byte) : Option Instr :=
  if op = 0x1#4 then (if fsel = 0#4 then some (.dec imm8) else none)
  else if op = 0x2#4 then (if fsel = 0#4 then some (.enc imm8) else none)
  else if op = 0x3#4 then (fieldOfSel fsel).map fun f => fdecOf f imm8
  else if op = 0x4#4 then (fieldOfSel fsel).map fun f => fencOf f imm8
  else if op = 0x5#4 then (fieldOfSel fsel).map fun f => ldOf f imm8
  else if op = 0x6#4 then (if imm8 = 0#8 then (fieldOfSel fsel).map rdOf else none)
  else if op = 0x7#4 then (if imm8 = 0#8 then (fieldOfSel fsel).map wrOf else none)
  else if op = 0x8#4 then (if fsel = 0#4 ∧ imm8 = 0#8 then some .gett else none)
  else if op = 0x9#4 then (if fsel = 0#4 ∧ imm8 = 0#8 then some .sett else none)
  else if op = 0xA#4 then (if fsel = 0#4 ∧ imm8 = 0#8 then some .init else none)
  else none

/-- `decode_cw` of R76: exactly one command with its operand, or illegal, with the clause of R77. -/
def decode (w : CmdWord) : Except Reject Instr :=
  match decodeFields (opField w) (fselField w) (immField w) with
  | some i => .ok i
  | none => .error (rejectReason w)

/-- The three fields of a command's word (R71 to R74): `op`, `fsel`, `imm8`; a field the format does not use is zero. -/
def Instr.fields (i : Instr) : BitVec 4 × BitVec 4 × Byte :=
  match i with
  | .dec imm8 => (0x1#4, 0#4, imm8)
  | .enc imm8 => (0x2#4, 0#4, imm8)
  | .fdecsec imm8 => (0x3#4, 0#4, imm8)
  | .fdecmin imm8 => (0x3#4, 1#4, imm8)
  | .fdechr imm8 => (0x3#4, 2#4, imm8)
  | .fdecwd imm8 => (0x3#4, 3#4, imm8)
  | .fdecdt imm8 => (0x3#4, 4#4, imm8)
  | .fdecmon imm8 => (0x3#4, 5#4, imm8)
  | .fdecyr imm8 => (0x3#4, 6#4, imm8)
  | .fencsec imm8 => (0x4#4, 0#4, imm8)
  | .fencmin imm8 => (0x4#4, 1#4, imm8)
  | .fenchr imm8 => (0x4#4, 2#4, imm8)
  | .fencwd imm8 => (0x4#4, 3#4, imm8)
  | .fencdt imm8 => (0x4#4, 4#4, imm8)
  | .fencmon imm8 => (0x4#4, 5#4, imm8)
  | .fencyr imm8 => (0x4#4, 6#4, imm8)
  | .ldsec imm8 => (0x5#4, 0#4, imm8)
  | .ldmin imm8 => (0x5#4, 1#4, imm8)
  | .ldhr imm8 => (0x5#4, 2#4, imm8)
  | .ldwd imm8 => (0x5#4, 3#4, imm8)
  | .lddt imm8 => (0x5#4, 4#4, imm8)
  | .ldmon imm8 => (0x5#4, 5#4, imm8)
  | .ldyr imm8 => (0x5#4, 6#4, imm8)
  | .rdsec => (0x6#4, 0#4, 0#8)
  | .rdmin => (0x6#4, 1#4, 0#8)
  | .rdhr => (0x6#4, 2#4, 0#8)
  | .rdwd => (0x6#4, 3#4, 0#8)
  | .rddt => (0x6#4, 4#4, 0#8)
  | .rdmon => (0x6#4, 5#4, 0#8)
  | .rdyr => (0x6#4, 6#4, 0#8)
  | .wrsec => (0x7#4, 0#4, 0#8)
  | .wrmin => (0x7#4, 1#4, 0#8)
  | .wrhr => (0x7#4, 2#4, 0#8)
  | .wrwd => (0x7#4, 3#4, 0#8)
  | .wrdt => (0x7#4, 4#4, 0#8)
  | .wrmon => (0x7#4, 5#4, 0#8)
  | .wryr => (0x7#4, 6#4, 0#8)
  | .gett => (0x8#4, 0#4, 0#8)
  | .sett => (0x9#4, 0#4, 0#8)
  | .init => (0xA#4, 0#4, 0#8)

/-- `CW = op ++ fsel ++ imm8` (R71). -/
def packWord (op fsel : BitVec 4) (imm8 : Byte) : CmdWord := op ++ fsel ++ imm8

/-- The command word of a command. -/
def encode (i : Instr) : CmdWord := packWord i.fields.1 i.fields.2.1 i.fields.2.2

/-- The mnemonic of R74. -/
def Instr.mnemonic (i : Instr) : String :=
  match i with
  | .dec _ => "DEC"
  | .enc _ => "ENC"
  | .fdecsec _ => "FDECSEC"
  | .fdecmin _ => "FDECMIN"
  | .fdechr _ => "FDECHR"
  | .fdecwd _ => "FDECWD"
  | .fdecdt _ => "FDECDT"
  | .fdecmon _ => "FDECMON"
  | .fdecyr _ => "FDECYR"
  | .fencsec _ => "FENCSEC"
  | .fencmin _ => "FENCMIN"
  | .fenchr _ => "FENCHR"
  | .fencwd _ => "FENCWD"
  | .fencdt _ => "FENCDT"
  | .fencmon _ => "FENCMON"
  | .fencyr _ => "FENCYR"
  | .ldsec _ => "LDSEC"
  | .ldmin _ => "LDMIN"
  | .ldhr _ => "LDHR"
  | .ldwd _ => "LDWD"
  | .lddt _ => "LDDT"
  | .ldmon _ => "LDMON"
  | .ldyr _ => "LDYR"
  | .rdsec => "RDSEC"
  | .rdmin => "RDMIN"
  | .rdhr => "RDHR"
  | .rdwd => "RDWD"
  | .rddt => "RDDT"
  | .rdmon => "RDMON"
  | .rdyr => "RDYR"
  | .wrsec => "WRSEC"
  | .wrmin => "WRMIN"
  | .wrhr => "WRHR"
  | .wrwd => "WRWD"
  | .wrdt => "WRDT"
  | .wrmon => "WRMON"
  | .wryr => "WRYR"
  | .gett => "GETT"
  | .sett => "SETT"
  | .init => "INIT"

/-- A row of the opcode table: the words `w` with `w & mask = pattern` are this mnemonic's (R76). -/
structure OpcodeRow where
  mnemonic : String
  format : Format
  mask : CmdWord
  pattern : CmdWord
deriving DecidableEq, Repr

/-- The rows of `DEC` and `ENC`. -/
def rowsCodec : List OpcodeRow :=
  [⟨"DEC", .i, 0xFF00#16, 0x1000#16⟩,
   ⟨"ENC", .i, 0xFF00#16, 0x2000#16⟩]

/-- The rows of `FDECx`. -/
def rowsFdec : List OpcodeRow :=
  [⟨"FDECSEC", .fi, 0xFF00#16, 0x3000#16⟩,
   ⟨"FDECMIN", .fi, 0xFF00#16, 0x3100#16⟩,
   ⟨"FDECHR", .fi, 0xFF00#16, 0x3200#16⟩,
   ⟨"FDECWD", .fi, 0xFF00#16, 0x3300#16⟩,
   ⟨"FDECDT", .fi, 0xFF00#16, 0x3400#16⟩,
   ⟨"FDECMON", .fi, 0xFF00#16, 0x3500#16⟩,
   ⟨"FDECYR", .fi, 0xFF00#16, 0x3600#16⟩]

/-- The rows of `FENCx`. -/
def rowsFenc : List OpcodeRow :=
  [⟨"FENCSEC", .fi, 0xFF00#16, 0x4000#16⟩,
   ⟨"FENCMIN", .fi, 0xFF00#16, 0x4100#16⟩,
   ⟨"FENCHR", .fi, 0xFF00#16, 0x4200#16⟩,
   ⟨"FENCWD", .fi, 0xFF00#16, 0x4300#16⟩,
   ⟨"FENCDT", .fi, 0xFF00#16, 0x4400#16⟩,
   ⟨"FENCMON", .fi, 0xFF00#16, 0x4500#16⟩,
   ⟨"FENCYR", .fi, 0xFF00#16, 0x4600#16⟩]

/-- The rows of `LDx`. -/
def rowsLd : List OpcodeRow :=
  [⟨"LDSEC", .fi, 0xFF00#16, 0x5000#16⟩,
   ⟨"LDMIN", .fi, 0xFF00#16, 0x5100#16⟩,
   ⟨"LDHR", .fi, 0xFF00#16, 0x5200#16⟩,
   ⟨"LDWD", .fi, 0xFF00#16, 0x5300#16⟩,
   ⟨"LDDT", .fi, 0xFF00#16, 0x5400#16⟩,
   ⟨"LDMON", .fi, 0xFF00#16, 0x5500#16⟩,
   ⟨"LDYR", .fi, 0xFF00#16, 0x5600#16⟩]

/-- The rows of `RDx`. -/
def rowsRd : List OpcodeRow :=
  [⟨"RDSEC", .f, 0xFFFF#16, 0x6000#16⟩,
   ⟨"RDMIN", .f, 0xFFFF#16, 0x6100#16⟩,
   ⟨"RDHR", .f, 0xFFFF#16, 0x6200#16⟩,
   ⟨"RDWD", .f, 0xFFFF#16, 0x6300#16⟩,
   ⟨"RDDT", .f, 0xFFFF#16, 0x6400#16⟩,
   ⟨"RDMON", .f, 0xFFFF#16, 0x6500#16⟩,
   ⟨"RDYR", .f, 0xFFFF#16, 0x6600#16⟩]

/-- The rows of `WRx`. -/
def rowsWr : List OpcodeRow :=
  [⟨"WRSEC", .f, 0xFFFF#16, 0x7000#16⟩,
   ⟨"WRMIN", .f, 0xFFFF#16, 0x7100#16⟩,
   ⟨"WRHR", .f, 0xFFFF#16, 0x7200#16⟩,
   ⟨"WRWD", .f, 0xFFFF#16, 0x7300#16⟩,
   ⟨"WRDT", .f, 0xFFFF#16, 0x7400#16⟩,
   ⟨"WRMON", .f, 0xFFFF#16, 0x7500#16⟩,
   ⟨"WRYR", .f, 0xFFFF#16, 0x7600#16⟩]

/-- The rows of `GETT`, `SETT`, `INIT`. -/
def rowsBare : List OpcodeRow :=
  [⟨"GETT", .z, 0xFFFF#16, 0x8000#16⟩,
   ⟨"SETT", .z, 0xFFFF#16, 0x9000#16⟩,
   ⟨"INIT", .z, 0xFFFF#16, 0xA000#16⟩]

/-- The opcode table: 40 rows (R74, R76). -/
def opcodeTable : List OpcodeRow :=
  rowsCodec ++ rowsFdec ++ rowsFenc ++ rowsLd ++ rowsRd ++ rowsWr ++ rowsBare

/-- The instruction this decoder reads from an instruction whose bits, numbered as spec/opcode_table.json numbers them, are
`w`. Every command is one 16-bit word (R71, R78), a single item on its port (R59), so there is no byte order to choose.
DESIGN CHOICE (log 16): bits at and above `nbits` count as zero, and a number that needs more than 16 bits is no command;
safe. -/
def decodeTableWord (nbits w : Nat) : Option Instr :=
  if w % 2 ^ nbits < 65536 then (decode (BitVec.ofNat 16 (w % 2 ^ nbits))).toOption else none

end Sys2Proof
end

