-- ==== Sys2Proof/Machine/Operands.lean ====
section
/-! DEFINITION. The field constants of R120 and the pure functions every command uses: the digit codec `dec` and `enc`
(R100, R101), the field decoder and encoder `fdec` and `fenc` (R126, R127), and the range check `inrange` (R128). Values
are computed as natural numbers and narrowed once, at the end. -/

namespace Sys2Proof.Machine

/-- The index of a field (R10), 0 to 6. -/
def fieldIndex (f : Field) : Nat :=
  match f with
  | .sec => 0
  | .min => 1
  | .hr => 2
  | .wd => 3
  | .dt => 4
  | .mon => 5
  | .yr => 6

/-- The composite order, "an explicit ordered list of field operations" (R220). -/
def compositeOrder : List Field := [.sec, .min, .hr, .wd, .dt, .mon, .yr]

/-- What follows `f` in a list of fields. -/
def fieldAfter (f : Field) (l : List Field) : Option Field :=
  match l with
  | [] => none
  | g :: rest => if g = f then rest.head? else fieldAfter f rest

/-- The field a composite goes on to after `f`: index + 1, and none after the year (R221). -/
def nextField (f : Field) : Option Field := fieldAfter f compositeOrder

/-- `ADDR[f]` (R48, R120). -/
def addr (f : Field) : Byte :=
  match f with
  | .sec => 0x00#8
  | .min => 0x01#8
  | .hr => 0x02#8
  | .wd => 0x03#8
  | .dt => 0x04#8
  | .mon => 0x05#8
  | .yr => 0x06#8

/-- `RMASK[f]` (R120, R121): ANDed onto a wire byte that was read. -/
def rmask (f : Field) : Byte :=
  match f with
  | .sec => 0x7F#8
  | .min => 0xFF#8
  | .hr => 0xBF#8
  | .wd => 0x07#8
  | .dt => 0xFF#8
  | .mon => 0xDF#8
  | .yr => 0xFF#8

/-- `WOR[f]` (R120, R122): the bits a write forces set. -/
def wor (f : Field) : Byte :=
  match f with
  | .sec => 0x80#8
  | .min => 0x00#8
  | .hr => 0x00#8
  | .wd => 0x00#8
  | .dt => 0x00#8
  | .mon => 0x00#8
  | .yr => 0x00#8

/-- `WAND[f]` (R120, R122): ANDed on a write, so its zero bits are forced clear. -/
def wand (f : Field) : Byte :=
  match f with
  | .sec => 0xFF#8
  | .min => 0xFF#8
  | .hr => 0xBF#8
  | .wd => 0xFF#8
  | .dt => 0xFF#8
  | .mon => 0xDF#8
  | .yr => 0xFF#8

/-- `BCD[f]` (R120, R125): whether the field is a digit pair; the weekday is a raw index. -/
def isBcd (f : Field) : Bool :=
  match f with
  | .sec => true
  | .min => true
  | .hr => true
  | .wd => false
  | .dt => true
  | .mon => true
  | .yr => true

/-- `LO[f]` (R21, R120). -/
def fieldLo (f : Field) : Byte :=
  match f with
  | .sec => 0#8
  | .min => 0#8
  | .hr => 0#8
  | .wd => 0#8
  | .dt => 1#8
  | .mon => 1#8
  | .yr => 0#8

/-- `HI[f]` (R21, R120). -/
def fieldHi (f : Field) : Byte :=
  match f with
  | .sec => 59#8
  | .min => 59#8
  | .hr => 23#8
  | .wd => 6#8
  | .dt => 31#8
  | .mon => 12#8
  | .yr => 99#8

/-- `RST[f]` (R25, R120; 90_conflicts.md C1: date and month are 1). -/
def rst (f : Field) : Byte :=
  match f with
  | .sec => 0#8
  | .min => 0#8
  | .hr => 0#8
  | .wd => 0#8
  | .dt => 1#8
  | .mon => 1#8
  | .yr => 0#8

/-- `b[7:4]` (R8). -/
def highNibble (b : Byte) : Nat := b.toNat / 16

/-- `b[3:0]` (R8). -/
def lowNibble (b : Byte) : Nat := b.toNat % 16

/-- `dec(b) = 10 * b[7:4] + b[3:0]`, for all 256 bytes (R100); at most 165, so the narrowing loses nothing (R105). -/
def dec (b : Byte) : Byte := BitVec.ofNat 8 (10 * highNibble b + lowNibble b)

/-- `enc(v) = ((tens mod 16) << 4) | ones`, for all 256 values (R101). The OR is an addition, since the low nibble of the
shifted tens is zero (R105). -/
def enc (v : Byte) : Byte := BitVec.ofNat 8 (v.toNat / 10 % 16 * 16 + v.toNat % 10)

/-- `fdec(f, b)` (R126): mask, then `dec` for a digit pair. -/
def fdec (f : Field) (b : Byte) : Byte := if isBcd f then dec (b &&& rmask f) else b &&& rmask f

/-- The value that goes to the write policy (R127): encoded for a digit pair, raw for the weekday. -/
def encodeRaw (f : Field) (v : Byte) : Byte := if isBcd f then enc v else v

/-- `fenc(f, v) = (e | WOR[f]) & WAND[f]` (R127). -/
def fenc (f : Field) (v : Byte) : Byte := (encodeRaw f v ||| wor f) &&& wand f

/-- `inrange(f, v)` (R128), unsigned. -/
def inrange (f : Field) (v : Byte) : Bool := fieldLo f ≤ v && v ≤ fieldHi f

/-- The day a weekday index names (R24): 0 Monday to 6 Sunday; 7 and above name no day. -/
def weekdayOfIndex (v : Byte) : Option Weekday :=
  match v.toNat with
  | 0 => some .monday
  | 1 => some .tuesday
  | 2 => some .wednesday
  | 3 => some .thursday
  | 4 => some .friday
  | 5 => some .saturday
  | 6 => some .sunday
  | _ => none

end Sys2Proof.Machine
end

