-- ==== Sys2Proof/Machine/Flags.lean ====
section
/-! DEFINITION. The block has no flags and no condition codes (R38). Its one report of status is the result word (R80 to
R82), whose fields and codes stand here, with the codes of the transport port (R41, R42). -/

namespace Sys2Proof.Machine

/-- The 1-bit code of a request's kind (R41). -/
def kindCode (k : ReqKind) : BitVec 1 :=
  match k with
  | .read => 0#1
  | .write => 1#1

/-- The 2-bit code of a transport outcome (R42). -/
def outcomeCode (o : TransportOutcome) : BitVec 2 :=
  match o with
  | .success => 0#2
  | .failure => 1#2
  | .timeout => 2#2

/-- The outcome a cause stands for (R251). -/
def causeOutcome (c : Cause) : TransportOutcome :=
  match c with
  | .failure => .failure
  | .timeout => .timeout

/-- What is wrong with a response: nothing when it is SUCCESS, else its outcome as a cause (R33, R251). -/
def causeOf (o : TransportOutcome) : Option Cause :=
  match o with
  | .success => none
  | .failure => some .failure
  | .timeout => some .timeout

/-- The layout of R80: `status[15:14]`, `cause[13:12]`, a zero, `field[10:8]`, `value[7:0]`. -/
def packResult (status cause : BitVec 2) (field : BitVec 3) (value : Byte) : ResultWord :=
  status ++ cause ++ 0#1 ++ field ++ value

/-- The 3-bit number of a field in a result word (R80). -/
def fieldCode (f : Field) : BitVec 3 := BitVec.ofNat 3 (fieldIndex f)

/-- The result word of `result(v)`: status 0 and the value (R11, R80). -/
def okWord (v : Byte) : ResultWord := packResult 0#2 0#2 0#3 v

/-- The result word of an exception: status 1, 2 or 3, and what R251, R252 and R253 record. -/
def exceptionWord (e : BlockException) : ResultWord :=
  match e with
  | .transportFailure f c => packResult 1#2 (outcomeCode (causeOutcome c)) (fieldCode f) 0#8
  | .outOfRangeValue f => packResult 2#2 0#2 (fieldCode f) 0#8
  | .illegalCommand => packResult 3#2 0#2 0#3 0#8

end Sys2Proof.Machine
end

