-- ==== Sys2Proof/Config.lean ====
section
/-! DEFINITION. What is fixed for one block but left open by the spec (the OPEN parameters of R7), and the free
values: constants without a body, so that no proof can see what they are. -/

namespace Sys2Proof.Config

/-- `DEV_ADDR` (R7, R41, D8): the peripheral's address on the two-wire bus, OPEN.
DESIGN CHOICE (log 6): a natural number, since the spec gives it no width; safe. -/
opaque devAddr : Nat

/-- `T_TIMEOUT` (R7, R45, D9): the transport's own time-out, OPEN; "no rule depends on it", and nothing here reads it. -/
opaque transportTimeout : Nat

/-- `CENTURY` (R7, R27, D10): what the two-digit year is offset from, OPEN; "never used by the block". -/
opaque century : Nat

/-- Free value: what `SEQ.op` holds once the block is idle (R26: "unspecified ... whenever `SEQ.busy` = 0"; U10).
DESIGN CHOICE (log 3); safe. -/
opaque idleOp : Nat → SeqOp

/-- Free value: what `SEQ.idx` holds once the block is idle (R26, U10). DESIGN CHOICE (log 3); safe. -/
opaque idleIdx : Nat → Field

end Sys2Proof.Config
end

