-- ==== Sys2Proof/Machine/State.lean ====
section
/-! DEFINITION. The state of the block: the seven snapshot registers (R20) and the sequencer (R29), which is all the state
the spec gives it (R36, R38, R291), and the ports of R70 as plain data of the environment. -/

namespace Sys2Proof.Machine

/-- The snapshot registers `S[0]` to `S[6]` (R20), each 8 bits. -/
structure Snapshot where
  sec : Byte
  min : Byte
  hr : Byte
  wd : Byte
  dt : Byte
  mon : Byte
  yr : Byte
deriving DecidableEq, Repr

/-- A transport request `treq` (R41). -/
structure Request where
  kind : ReqKind
  dev : Nat
  reg : Byte
  wdata : Byte
deriving DecidableEq, Repr

/-- An input event: the two of R30, and an assertion of the reset input (R290). -/
inductive Event where
  /-- The host presents a command word (R30). -/
  | cmd (w : CmdWord)
  /-- The transport answers: outcome and data (R30, R42). -/
  | tresp (o : TransportOutcome) (data : Byte)
  /-- The reset input is asserted (R290). -/
  | reset
deriving DecidableEq, Repr

/-- The state of the block, and of its ports. -/
structure State where
  /-- `S` (R20). -/
  snap : Snapshot
  /-- `SEQ.busy` (R29). -/
  busy : Bool
  /-- `SEQ.op` (R29); means something only while busy (R26). -/
  op : SeqOp
  /-- `SEQ.idx` (R29), the block's only program counter; means something only while busy (R26).
  DEDUCED (log 5): "values 0 to 6", so the seven field names. -/
  idx : Field
  /-- Environment: the input events still to come, in order. DESIGN CHOICE (log 1). -/
  inputs : List Event
  /-- Environment: the requests emitted so far, oldest first. DESIGN CHOICE (log 2). -/
  treqOut : List Request
  /-- Environment: the result words emitted so far, oldest first. DESIGN CHOICE (log 2). -/
  resOut : List ResultWord
  /-- The model's own: the argument of the next free value. DESIGN CHOICE (log 3). -/
  free : Nat
deriving DecidableEq, Repr

/-- A fault stops the machine. The block has none: "No failure is treated as fatal" (R259), and every exception is a
result (R255). DEDUCED (log 13): so this type has no constructor; safe. -/
inductive Fault where
deriving DecidableEq, Repr

/-- A refusal: a command without a meaning. -/
inductive Refusal where
  /-- Raised by an arm of `exec` for a command that has no meaning in the model; no arm raises it. Safe. -/
  | notModelled (mnemonic : String)
deriving DecidableEq, Repr

/-- What one step answers. -/
abbrev StepOutcome := Host.Outcome State Fault Refusal

/-- The state after hardware reset (R25, R26, R290, R291): `S = RST`, idle, nothing emitted.
DESIGN CHOICE (log 4): `SEQ.op` and `SEQ.idx`, which R26 leaves unspecified, are RD and SEC; no input is listed; unsafe. -/
def State.reset : State where
  snap :=
    { sec := rst .sec, min := rst .min, hr := rst .hr, wd := rst .wd, dt := rst .dt, mon := rst .mon, yr := rst .yr }
  busy := false
  op := .rd
  idx := .sec
  inputs := []
  treqOut := []
  resOut := []
  free := 0

end Sys2Proof.Machine
end

