-- ==== Sys2Proof/Machine/Ops.lean ====
section
/-! DEFINITION. The operations the commands share, after the pseudocode primitives of R11: reading and writing `S[f]`,
issuing a transport request, ending with `result(v)`, ending with `raise E`, and hardware reset. -/

namespace Sys2Proof.Machine

/-- Read of `S[f]` (R11). -/
def Snapshot.get (S : Snapshot) (f : Field) : Byte :=
  match f with
  | .sec => S.sec
  | .min => S.min
  | .hr => S.hr
  | .wd => S.wd
  | .dt => S.dt
  | .mon => S.mon
  | .yr => S.yr

/-- `S[f] <- v` (R11). -/
def Snapshot.set (S : Snapshot) (f : Field) (v : Byte) : Snapshot :=
  match f with
  | .sec => { S with sec := v }
  | .min => { S with min := v }
  | .hr => { S with hr := v }
  | .wd => { S with wd := v }
  | .dt => { S with dt := v }
  | .mon => { S with mon := v }
  | .yr => { S with yr := v }

/-- The snapshot of construction and reset, `RST` (R25). -/
def resetSnapshot : Snapshot where
  sec := rst .sec
  min := rst .min
  hr := rst .hr
  wd := rst .wd
  dt := rst .dt
  mon := rst .mon
  yr := rst .yr

/-- The snapshot output: `snap_out[f] = S[f]` at all times (R28). -/
def State.snapOut (s : State) (f : Field) : Byte := s.snap.get f

/-- `S[f] <- v` in the state. -/
def setField (f : Field) (v : Byte) (s : State) : State := { s with snap := s.snap.set f v }

/-- One request leaves on the transport port (R30, R70 d). -/
def emitRequest (r : Request) (s : State) : State := { s with treqOut := s.treqOut ++ [r] }

/-- One result word leaves on the result port (R30, R70 b). -/
def emitResult (w : ResultWord) (s : State) : State := { s with resOut := s.resOut ++ [w] }

/-- The sequencer is idle: `SEQ.busy <- 0`, and `SEQ.op` and `SEQ.idx` are unspecified (R26): free values (log 3). -/
def becomeIdle (s : State) : State :=
  { s with busy := false, op := Config.idleOp s.free, idx := Config.idleIdx s.free, free := s.free + 1 }

/-- The sequencer waits for the answer to a request of field `f` (R29, R32): `pc <- f`. -/
def becomeBusy (op : SeqOp) (f : Field) (s : State) : State := { s with busy := true, op := op, idx := f }

/-- `result(v)` (R11): the command ends with status OK and the value. -/
def finish (v : Byte) (s : State) : State := becomeIdle (emitResult (okWord v) s)

/-- Taking an exception, `raise E(info)` (R11, R255): one result word, `SEQ.busy <- 0`; nothing is saved, nothing is rolled
back, no mode changes and there is no handler. There is no return from an exception either (R244, R255): the block is ready
for the next command. -/
def raise (e : BlockException) (s : State) : State := becomeIdle (emitResult (exceptionWord e) s)

/-- The request of `MemRead(ADDR[f], 1)` (R41, R43); its data is driven as 0x00. -/
def readRequest (f : Field) : Request := ⟨.read, Config.devAddr, addr f, 0x00#8⟩

/-- The request of `MemWrite(ADDR[f], 1, v)` (R41, R44). -/
def writeRequest (f : Field) (v : Byte) : Request := ⟨.write, Config.devAddr, addr f, v⟩

/-- `pc <- f`, then the issue of `MemRead(ADDR[f], 1)` (R32, R43). -/
def issueRead (op : SeqOp) (f : Field) (s : State) : State := emitRequest (readRequest f) (becomeBusy op f s)

/-- `pc <- f`, then the issue of `MemWrite(ADDR[f], 1, v)` (R32, R44). -/
def issueWrite (op : SeqOp) (f : Field) (v : Byte) (s : State) : State :=
  emitRequest (writeRequest f v) (becomeBusy op f s)

/-- `pc <- f`, then the issue of the write of `fenc(f, S[f])` (R32, R200, R226). -/
def issueFieldWrite (op : SeqOp) (f : Field) (s : State) : State := issueWrite op f (fenc f (s.snap.get f)) s

/-- The first field in composite order whose snapshot value is out of range (R226, R252). -/
def firstOutOfRange (S : Snapshot) : Option Field := compositeOrder.find? fun f => !inrange f (S.get f)

/-- The reset input asserted (R290): `S = RST`, idle; the command in progress, if any, is abandoned; nothing is emitted. -/
def hardwareReset (s : State) : State := becomeIdle { s with snap := resetSnapshot }

end Sys2Proof.Machine
end

