-- ==== Sys2Proof/Machine/Codec.lean ====
section
/-! DEFINITION. The digit codec commands (40_codec.md). They read and write no snapshot register and send no request (R108). -/

namespace Sys2Proof.Machine

/-- `DEC imm8` (R102): `result(dec(imm8))`; never fails. -/
def execDec (imm8 : Byte) (s : State) : StepOutcome := .next (finish (dec imm8) s)

/-- `ENC imm8` (R103): `result(enc(imm8))`; never fails, also above 99. -/
def execEnc (imm8 : Byte) (s : State) : StepOutcome := .next (finish (enc imm8) s)

end Sys2Proof.Machine
end

