-- ==== Sys2Proof/Machine/Composite.lean ====
section
/-! DEFINITION. The composite commands (45_composite.md) up to their first request (R32); the loop goes on at each response
(Machine/Response.lean). -/

namespace Sys2Proof.Machine

/-- `GETT` (R222): the first of the seven reads. -/
def execGett (s : State) : StepOutcome := .next (issueRead .gett .sec s)

/-- The check phase of `SETT`, then the first of the seven writes (R226, R228): the first field out of range, in field
order, ends the command before any request. -/
def startSett (s : State) : State :=
  match firstOutOfRange s.snap with
  | some f => raise (.outOfRangeValue f) s
  | none => issueFieldWrite .sett .sec s

/-- `SETT` (R226). -/
def execSett (s : State) : StepOutcome := .next (startSett s)

end Sys2Proof.Machine
end

