-- ==== Sys2Proof/Machine/FieldCodec.lean ====
section
/-! DEFINITION. The field decoder and encoder commands (41_field_codec.md): no snapshot register, no request, no exception (R132). -/

namespace Sys2Proof.Machine

/-- `FDECSEC imm8` (R133, R132): `result(fdec(SEC, imm8))`. -/
def execFdecsec (imm8 : Byte) (s : State) : StepOutcome := .next (finish (fdec .sec imm8) s)

/-- `FDECMIN imm8` (R134, R132): `result(fdec(MIN, imm8))`. -/
def execFdecmin (imm8 : Byte) (s : State) : StepOutcome := .next (finish (fdec .min imm8) s)

/-- `FDECHR imm8` (R135, R132): `result(fdec(HR, imm8))`. -/
def execFdechr (imm8 : Byte) (s : State) : StepOutcome := .next (finish (fdec .hr imm8) s)

/-- `FDECWD imm8` (R136, R132): `result(fdec(WD, imm8))`. -/
def execFdecwd (imm8 : Byte) (s : State) : StepOutcome := .next (finish (fdec .wd imm8) s)

/-- `FDECDT imm8` (R137, R132): `result(fdec(DT, imm8))`. -/
def execFdecdt (imm8 : Byte) (s : State) : StepOutcome := .next (finish (fdec .dt imm8) s)

/-- `FDECMON imm8` (R138, R132): `result(fdec(MON, imm8))`. -/
def execFdecmon (imm8 : Byte) (s : State) : StepOutcome := .next (finish (fdec .mon imm8) s)

/-- `FDECYR imm8` (R139, R132): `result(fdec(YR, imm8))`. -/
def execFdecyr (imm8 : Byte) (s : State) : StepOutcome := .next (finish (fdec .yr imm8) s)

/-- `FENCSEC imm8` (R140, R132): `result(fenc(SEC, imm8))`; no range check. -/
def execFencsec (imm8 : Byte) (s : State) : StepOutcome := .next (finish (fenc .sec imm8) s)

/-- `FENCMIN imm8` (R141, R132): `result(fenc(MIN, imm8))`; no range check. -/
def execFencmin (imm8 : Byte) (s : State) : StepOutcome := .next (finish (fenc .min imm8) s)

/-- `FENCHR imm8` (R142, R132): `result(fenc(HR, imm8))`; no range check. -/
def execFenchr (imm8 : Byte) (s : State) : StepOutcome := .next (finish (fenc .hr imm8) s)

/-- `FENCWD imm8` (R143, R132): `result(fenc(WD, imm8))`; no range check. -/
def execFencwd (imm8 : Byte) (s : State) : StepOutcome := .next (finish (fenc .wd imm8) s)

/-- `FENCDT imm8` (R144, R132): `result(fenc(DT, imm8))`; no range check. -/
def execFencdt (imm8 : Byte) (s : State) : StepOutcome := .next (finish (fenc .dt imm8) s)

/-- `FENCMON imm8` (R145, R132): `result(fenc(MON, imm8))`; no range check. -/
def execFencmon (imm8 : Byte) (s : State) : StepOutcome := .next (finish (fenc .mon imm8) s)

/-- `FENCYR imm8` (R146, R132): `result(fenc(YR, imm8))`; no range check. -/
def execFencyr (imm8 : Byte) (s : State) : StepOutcome := .next (finish (fenc .yr imm8) s)

end Sys2Proof.Machine
end

