-- ==== Sys2Proof/Machine/Load.lean ====
section
/-! DEFINITION. The snapshot load commands (42_snapshot_load.md). None sends a request (R160). -/

namespace Sys2Proof.Machine

/-- What the seven `LDx` have in common (R160): check the operand, then `S[f] <- imm8` and `result(imm8)`. -/
def loadField (f : Field) (imm8 : Byte) (s : State) : State :=
  if inrange f imm8 then finish imm8 (setField f imm8 s) else raise (.outOfRangeValue f) s

/-- `LDSEC imm8` (R161). -/
def execLdsec (imm8 : Byte) (s : State) : StepOutcome := .next (loadField .sec imm8 s)

/-- `LDMIN imm8` (R162). -/
def execLdmin (imm8 : Byte) (s : State) : StepOutcome := .next (loadField .min imm8 s)

/-- `LDHR imm8` (R163). -/
def execLdhr (imm8 : Byte) (s : State) : StepOutcome := .next (loadField .hr imm8 s)

/-- `LDWD imm8` (R164). -/
def execLdwd (imm8 : Byte) (s : State) : StepOutcome := .next (loadField .wd imm8 s)

/-- `LDDT imm8` (R165). -/
def execLddt (imm8 : Byte) (s : State) : StepOutcome := .next (loadField .dt imm8 s)

/-- `LDMON imm8` (R166). -/
def execLdmon (imm8 : Byte) (s : State) : StepOutcome := .next (loadField .mon imm8 s)

/-- `LDYR imm8` (R167). -/
def execLdyr (imm8 : Byte) (s : State) : StepOutcome := .next (loadField .yr imm8 s)

end Sys2Proof.Machine
end

