-- ==== Sys2Proof/Machine/Read.lean ====
section
/-! DEFINITION. The field read commands (43_field_read.md) up to their one request (R32); the rest of R180 runs at the response
(Machine/Response.lean). -/

namespace Sys2Proof.Machine

/-- `RDSEC` (R181, R180). -/
def execRdsec (s : State) : StepOutcome := .next (issueRead .rd .sec s)

/-- `RDMIN` (R182, R180). -/
def execRdmin (s : State) : StepOutcome := .next (issueRead .rd .min s)

/-- `RDHR` (R183, R180). -/
def execRdhr (s : State) : StepOutcome := .next (issueRead .rd .hr s)

/-- `RDWD` (R184, R180). -/
def execRdwd (s : State) : StepOutcome := .next (issueRead .rd .wd s)

/-- `RDDT` (R185, R180). -/
def execRddt (s : State) : StepOutcome := .next (issueRead .rd .dt s)

/-- `RDMON` (R186, R180). -/
def execRdmon (s : State) : StepOutcome := .next (issueRead .rd .mon s)

/-- `RDYR` (R187, R180). -/
def execRdyr (s : State) : StepOutcome := .next (issueRead .rd .yr s)

end Sys2Proof.Machine
end

