-- ==== Sys2Proof/Machine/System.lean ====
section
/-! DEFINITION. The system command (46_system.md). -/

namespace Sys2Proof.Machine

/-- `INIT` (R240): `S <- RST`, all in this one step, then the write of 0x80 at 0x00. -/
def execInit (s : State) : StepOutcome := .next (issueWrite .init .sec 0x80#8 { s with snap := resetSnapshot })

end Sys2Proof.Machine
end

