-- ==== Sys2Proof/Machine/Write.lean ====
section
/-! DEFINITION. The field write commands (44_field_write.md) up to their one request (R32); they change no snapshot register (R200). -/

namespace Sys2Proof.Machine

/-- What the seven `WRx` have in common, up to the request (R200): check `S[f]` "before any transport call", then write. -/
def writeField (f : Field) (s : State) : State :=
  if inrange f (s.snap.get f) then issueFieldWrite .wr f s else raise (.outOfRangeValue f) s

/-- `WRSEC` (R201, R200). -/
def execWrsec (s : State) : StepOutcome := .next (writeField .sec s)

/-- `WRMIN` (R202, R200). -/
def execWrmin (s : State) : StepOutcome := .next (writeField .min s)

/-- `WRHR` (R203, R200). -/
def execWrhr (s : State) : StepOutcome := .next (writeField .hr s)

/-- `WRWD` (R204, R200). -/
def execWrwd (s : State) : StepOutcome := .next (writeField .wd s)

/-- `WRDT` (R205, R200). -/
def execWrdt (s : State) : StepOutcome := .next (writeField .dt s)

/-- `WRMON` (R206, R200). -/
def execWrmon (s : State) : StepOutcome := .next (writeField .mon s)

/-- `WRYR` (R207, R200). -/
def execWryr (s : State) : StepOutcome := .next (writeField .yr s)

end Sys2Proof.Machine
end

