-- ==== Sys2Proof/Machine/Dispatch.lean ====
section
/-! DEFINITION. One arm per command: what the block does when it accepts it (R31, R32). -/

namespace Sys2Proof.Machine

-- The step of R31 or R32 on an accepted command. That a command is accepted only when idle (R30) is the port's rule
-- (Machine/Sequencer.lean); log 11.
def exec (i : Instr) (s : State) : Host.Outcome State Fault Refusal :=
  match i with
  | .dec imm8 => Sys2Proof.Machine.execDec imm8 s
  | .enc imm8 => Sys2Proof.Machine.execEnc imm8 s
  | .fdecsec imm8 => Sys2Proof.Machine.execFdecsec imm8 s
  | .fdecmin imm8 => Sys2Proof.Machine.execFdecmin imm8 s
  | .fdechr imm8 => Sys2Proof.Machine.execFdechr imm8 s
  | .fdecwd imm8 => Sys2Proof.Machine.execFdecwd imm8 s
  | .fdecdt imm8 => Sys2Proof.Machine.execFdecdt imm8 s
  | .fdecmon imm8 => Sys2Proof.Machine.execFdecmon imm8 s
  | .fdecyr imm8 => Sys2Proof.Machine.execFdecyr imm8 s
  | .fencsec imm8 => Sys2Proof.Machine.execFencsec imm8 s
  | .fencmin imm8 => Sys2Proof.Machine.execFencmin imm8 s
  | .fenchr imm8 => Sys2Proof.Machine.execFenchr imm8 s
  | .fencwd imm8 => Sys2Proof.Machine.execFencwd imm8 s
  | .fencdt imm8 => Sys2Proof.Machine.execFencdt imm8 s
  | .fencmon imm8 => Sys2Proof.Machine.execFencmon imm8 s
  | .fencyr imm8 => Sys2Proof.Machine.execFencyr imm8 s
  | .ldsec imm8 => Sys2Proof.Machine.execLdsec imm8 s
  | .ldmin imm8 => Sys2Proof.Machine.execLdmin imm8 s
  | .ldhr imm8 => Sys2Proof.Machine.execLdhr imm8 s
  | .ldwd imm8 => Sys2Proof.Machine.execLdwd imm8 s
  | .lddt imm8 => Sys2Proof.Machine.execLddt imm8 s
  | .ldmon imm8 => Sys2Proof.Machine.execLdmon imm8 s
  | .ldyr imm8 => Sys2Proof.Machine.execLdyr imm8 s
  | .rdsec => Sys2Proof.Machine.execRdsec s
  | .rdmin => Sys2Proof.Machine.execRdmin s
  | .rdhr => Sys2Proof.Machine.execRdhr s
  | .rdwd => Sys2Proof.Machine.execRdwd s
  | .rddt => Sys2Proof.Machine.execRddt s
  | .rdmon => Sys2Proof.Machine.execRdmon s
  | .rdyr => Sys2Proof.Machine.execRdyr s
  | .wrsec => Sys2Proof.Machine.execWrsec s
  | .wrmin => Sys2Proof.Machine.execWrmin s
  | .wrhr => Sys2Proof.Machine.execWrhr s
  | .wrwd => Sys2Proof.Machine.execWrwd s
  | .wrdt => Sys2Proof.Machine.execWrdt s
  | .wrmon => Sys2Proof.Machine.execWrmon s
  | .wryr => Sys2Proof.Machine.execWryr s
  | .gett => Sys2Proof.Machine.execGett s
  | .sett => Sys2Proof.Machine.execSett s
  | .init => Sys2Proof.Machine.execInit s

end Sys2Proof.Machine
end

