-- ==== Sys2Proof/Machine/Response.lean ====
section
/-! DEFINITION. The step on a transport response (R30, R33, R34): where a command that waits for the transport goes on. -/

namespace Sys2Proof.Machine

/-- `S[i] <- fdec(i, data)` with i = `SEQ.idx` (R34, rows `RD` and `GETT`). -/
def storeRead (data : Byte) (s : State) : State := setField s.idx (fdec s.idx data) s

/-- R34, row `RD`: store, and `result(S[i])` with the value just stored (R180). -/
def respondRd (data : Byte) (s : State) : State :=
  finish ((storeRead data s).snap.get s.idx) (storeRead data s)

/-- R34, row `WR`: `result(0)` (R200). -/
def respondWr (s : State) : State := finish 0#8 s

/-- R34, row `INIT`: `result(0)` (R240). -/
def respondInit (s : State) : State := finish 0#8 s

/-- R34, row `GETT`: store, then the next field's read, or `result(0)` after the year (R222). -/
def respondGett (data : Byte) (s : State) : State :=
  match nextField s.idx with
  | some f => issueRead .gett f (storeRead data s)
  | none => finish 0#8 (storeRead data s)

/-- R34, row `SETT`: the next field's write, or `result(0)` after the year (R226). -/
def respondSett (s : State) : State :=
  match nextField s.idx with
  | some f => issueFieldWrite .sett f s
  | none => finish 0#8 s

/-- A response with outcome SUCCESS, by `SEQ.op` (R34). -/
def onSuccess (data : Byte) (s : State) : State :=
  match s.op with
  | .rd => respondRd data s
  | .wr => respondWr s
  | .gett => respondGett data s
  | .sett => respondSett s
  | .init => respondInit s

/-- A transport response: discarded when idle (R30); while busy, TransportFailure of field `SEQ.idx` unless the outcome is
SUCCESS (R33), the same for all five kinds of command. -/
def onResponse (o : TransportOutcome) (data : Byte) (s : State) : State :=
  if s.busy then
    match causeOf o with
    | some c => raise (.transportFailure s.idx c) s
    | none => onSuccess data s
  else s

end Sys2Proof.Machine
end

