-- ==== Sys2Proof/Machine/Sequencer.lean ====
section
/-! DEFINITION. Which input event the block takes (R30) and what it does on it: the command port, the transport port and
the reset input (R70, R290). -/

namespace Sys2Proof.Machine

/-- The next event that is enabled, and the inputs that stay (R30). A command word is enabled only when the block is idle:
while busy "it is simply not taken until the block is idle", so it stays presented, at its place, and the first event of
another kind comes before it. DESIGN CHOICE (log 1); safe. -/
def takeEvent (busy : Bool) (inputs : List Event) : Option (Event × List Event) :=
  match inputs with
  | [] => none
  | .cmd w :: rest =>
    if busy then
      match takeEvent busy rest with
      | some (e, left) => some (e, .cmd w :: left)
      | none => none
    else some (.cmd w, rest)
  | .tresp o d :: rest => some (.tresp o d, rest)
  | .reset :: rest => some (.reset, rest)

/-- A command word is accepted: decode, and run, or end at once with IllegalCommand (R31, R77, R253). -/
def onCommand (w : CmdWord) (s : State) : StepOutcome :=
  match decode w with
  | .ok i => exec i s
  | .error _ => .next (raise .illegalCommand s)

/-- One event (R30, R290). -/
def onEvent (e : Event) (s : State) : StepOutcome :=
  match e with
  | .cmd w => onCommand w s
  | .tresp o d => .next (onResponse o d s)
  | .reset => .next (hardwareReset s)

/-- The block takes its next event; with none enabled it waits (R30, R267: "when idle it simply waits for a command, when
busy for the transport"). DEDUCED (log 9): waiting is a step that changes nothing; safe. -/
def takeStep (s : State) : StepOutcome :=
  match takeEvent s.busy s.inputs with
  | some (e, left) => onEvent e { s with inputs := left }
  | none => .next s

/-- The host presents `w` first, and the block is idle, so that it accepts (R30). -/
def presentCommand (w : CmdWord) (s : State) : State := { s with busy := false, inputs := .cmd w :: s.inputs }

end Sys2Proof.Machine
end

