-- ==== Sys2Proof/Machine/Step.lean ====
section
/-! DEFINITION. One step of the block, and where it takes its next command from. -/

namespace Sys2Proof.Machine

/-- One step: one input event (R30). -/
def step (s : State) : Host.Outcome State Fault Refusal := takeStep s

/-- `s` with a command word on the command port, first among the inputs, and the sequencer idle, as acceptance needs (R30).
The block fetches nothing from a memory (R67); log 8 says how a program comes to run. The bits at and above `nbits` are
zero (log 16). -/
def State.withFetchWord (s : State) (nbits w : Nat) : State := presentCommand (BitVec.ofNat 16 (w % 2 ^ nbits)) s

end Sys2Proof.Machine
end

