-- ==== Sys2Proof/Machine/Assembler.lean ====
section
/-! DEFINITION. The notation of R83 and the pseudo-instructions of R84: from a line's characters to command words. It is no
part of the block (the host writes the words on the command port); it fixes what the programs of the spec's examples mean. -/

namespace Sys2Proof.Machine

/-- Why a line does not assemble. -/
inductive AsmError where
  | tooManyTokens | badNumber | unknownMnemonic | operandMissing | operandUnexpected | operandTooLarge
deriving DecidableEq, Repr

/-- White space separates a mnemonic from its operand (R83). DESIGN CHOICE (log 14): a space or a tab; safe. -/
def isBlank (c : Char) : Bool := c == ' ' || c == '\t'

/-- A `;` starts a comment to the end of the line (R83). -/
def dropComment (line : List Char) : List Char := line.takeWhile fun c => c != ';'

/-- The tokens of a line; `cur` is the token being read. -/
def tokensFrom (cur : List Char) (line : List Char) : List (List Char) :=
  match line with
  | [] => if cur.isEmpty then [] else [cur]
  | c :: rest =>
    if isBlank c then (if cur.isEmpty then tokensFrom [] rest else cur :: tokensFrom [] rest)
    else tokensFrom (cur ++ [c]) rest

/-- The value of a digit in a base up to 16. DESIGN CHOICE (log 14): hexadecimal letters of either case; safe. -/
def digitValue (base : Nat) (c : Char) : Option Nat :=
  let n := c.toNat
  let v := if 48 ≤ n ∧ n ≤ 57 then n - 48
    else if 65 ≤ n ∧ n ≤ 70 then n - 55
    else if 97 ≤ n ∧ n ≤ 102 then n - 87
    else base
  if v < base then some v else none

/-- The number that digits spell, after `acc`. -/
def digitsValue (base acc : Nat) (digits : List Char) : Option Nat :=
  match digits with
  | [] => some acc
  | c :: rest =>
    match digitValue base c with
    | some v => digitsValue base (base * acc + v) rest
    | none => none

/-- A number "in decimal or with `0x` in hexadecimal" (R83). -/
def readNumber (token : List Char) : Option Nat :=
  match token with
  | [] => none
  | '0' :: 'x' :: [] => none
  | '0' :: 'x' :: digits => digitsValue 16 0 digits
  | digits => digitsValue 10 0 digits

/-- One line: nothing when it holds no token, else a mnemonic and at most one number (R83). -/
def readLine (line : List Char) : Except AsmError (Option AsmLine) :=
  match tokensFrom [] (dropComment line) with
  | [] => .ok none
  | [m] => .ok (some ⟨String.ofList m, none⟩)
  | [m, n] =>
    match readNumber n with
    | some v => .ok (some ⟨String.ofList m, some v⟩)
    | none => .error .badNumber
  | _ => .error .tooManyTokens

/-- The other names of a command: the document's operation names, and `GETx` for `RDx` (R84 b, c). -/
def otherNames : List (String × String) :=
  [("decode", "DEC"), ("encode", "ENC"), ("get_time", "GETT"), ("set_time", "SETT"), ("init", "INIT"),
   ("GETSEC", "RDSEC"), ("GETMIN", "RDMIN"), ("GETHR", "RDHR"), ("GETWD", "RDWD"), ("GETDT", "RDDT"),
   ("GETMON", "RDMON"), ("GETYR", "RDYR")]

/-- The command mnemonic a name stands for. -/
def commandName (m : String) : String :=
  match otherNames.find? fun p => p.1 == m with
  | some p => p.2
  | none => m

/-- `SETx` and the two commands it expands to, `LDx v` then `WRx` (R84 a). The host sends the second only if the first
ends with status OK; that is the host's act. -/
def setNames : List (String × String × String) :=
  [("SETSEC", "LDSEC", "WRSEC"), ("SETMIN", "LDMIN", "WRMIN"), ("SETHR", "LDHR", "WRHR"), ("SETWD", "LDWD", "WRWD"),
   ("SETDT", "LDDT", "WRDT"), ("SETMON", "LDMON", "WRMON"), ("SETYR", "LDYR", "WRYR")]

/-- The word of one command: its row's pattern, with the operand in `CW[7:0]` where the format has one (R72, R83). -/
def commandWord (m : String) (operand : Option Nat) : Except AsmError CmdWord :=
  match opcodeTable.find? fun r => r.mnemonic == m with
  | none => .error .unknownMnemonic
  | some r =>
    match r.format, operand with
    | .i, some n => if n ≤ 255 then .ok (r.pattern + BitVec.ofNat 16 n) else .error .operandTooLarge
    | .fi, some n => if n ≤ 255 then .ok (r.pattern + BitVec.ofNat 16 n) else .error .operandTooLarge
    | .i, none => .error .operandMissing
    | .fi, none => .error .operandMissing
    | .f, none => .ok r.pattern
    | .z, none => .ok r.pattern
    | .f, some _ => .error .operandUnexpected
    | .z, some _ => .error .operandUnexpected

/-- The words of a line: one command, or the two of `SETx` (R83, R84). -/
def assembleLine (l : AsmLine) : Except AsmError (List CmdWord) :=
  match setNames.find? fun p => p.1 == l.mnemonic with
  | some p =>
    match commandWord p.2.1 l.operand, commandWord p.2.2 none with
    | .ok w, .ok w' => .ok [w, w']
    | .error e, _ => .error e
    | _, .error e => .error e
  | none => (commandWord (commandName l.mnemonic) l.operand).map fun w => [w]

/-- A line's characters to its command words (R83, R84). -/
def assemble (line : List Char) : Except AsmError (List CmdWord) :=
  match readLine line with
  | .ok none => .ok []
  | .ok (some l) => assembleLine l
  | .error e => .error e

end Sys2Proof.Machine
end

