-- ==== Sys2Proof/Safety.lean ====
section
/-! DEFINITION. The terms the claims are stated in: how a command ends or starts, runs of several steps, and the invariants
of the block. -/

namespace Sys2Proof.Machine

/-- The block is idle (R29): it can accept a command. -/
abbrev Idle (s : State) : Prop := s.busy = false

/-- Every snapshot register is in its field's range (R21, R128). No invariant: a read can break it (R22). -/
abbrev AllInRange (S : Snapshot) : Prop := ∀ f : Field, inrange f (S.get f) = true

/-- The outcome is a next state in which the command has ended, from `s`: exactly one result word `w` more, no request, idle;
the snapshot is `S` and the inputs left are `inp`. (`SEQ.op` and `SEQ.idx` are then unspecified, R26.) -/
def EndsWith (o : StepOutcome) (s : State) (S : Snapshot) (w : ResultWord) (inp : List Event) : Prop :=
  ∃ t, o = .next t ∧ t.snap = S ∧ t.busy = false ∧ t.inputs = inp ∧ t.treqOut = s.treqOut ∧ t.resOut = s.resOut ++ [w]

/-- The outcome is a next state in which the block waits for the answer to one more request `r`, from `s`: no result word,
the sequencer at `op` and `f`; the snapshot is `S` and the inputs left are `inp`. -/
def WaitsWith (o : StepOutcome) (s : State) (S : Snapshot) (op : SeqOp) (f : Field) (r : Request)
    (inp : List Event) : Prop :=
  ∃ t, o = .next t ∧ t.snap = S ∧ t.busy = true ∧ t.op = op ∧ t.idx = f ∧ t.inputs = inp ∧
    t.treqOut = s.treqOut ++ [r] ∧ t.resOut = s.resOut

/-- `n` steps, one after the other. -/
def steps (n : Nat) (s : State) : StepOutcome :=
  match n with
  | 0 => .next s
  | k + 1 =>
    match step s with
    | .next t => steps k t
    | .fault r => .fault r
    | .refused r => .refused r

/-- The result word of a failed transaction, by the numbers of R82: `0x5000 + 0x100*f` or `0x6000 + 0x100*f`. -/
def failureWord (o : TransportOutcome) (n : Nat) : ResultWord :=
  match o with
  | .success => 0x0000#16
  | .failure => BitVec.ofNat 16 (0x5000 + 0x100 * n)
  | .timeout => BitVec.ofNat 16 (0x6000 + 0x100 * n)

/-- What a response does to a command that has just been accepted and waits: on SUCCESS with data `d` it ends with the
snapshot `S d` and the result `w d`; on FAILURE and TIMEOUT it ends with the snapshot `S₀` and the failure word of field
number `n`. -/
def AnsweredWith (t : State) (n : Nat) (S₀ : Snapshot) (S : Byte → Snapshot) (w : Byte → ResultWord) : Prop :=
  ∀ (d : Byte) (rest : List Event),
    EndsWith (step { t with inputs := .tresp .success d :: rest }) t (S d) (w d) rest ∧
    EndsWith (step { t with inputs := .tresp .failure d :: rest }) t S₀ (failureWord .failure n) rest ∧
    EndsWith (step { t with inputs := .tresp .timeout d :: rest }) t S₀ (failureWord .timeout n) rest

/-- The read of a register, by its address (R41): `treq` of kind READ, its data 0x00. -/
def readAt (a : Byte) : Request := ⟨.read, Config.devAddr, a, 0x00#8⟩

/-- The write of a byte to a register (R41). -/
def writeAt (a v : Byte) : Request := ⟨.write, Config.devAddr, a, v⟩

/-- The bytes a transport answers with, all SUCCESS, as input events. -/
def answers (ds : List Byte) : List Event := ds.map fun d => .tresp .success d

/-- The byte last written to a register, as a request on the wire: what an echo transport answers (R14, R208). -/
def lastWritten (reqs : List Request) (a : Byte) : Option Byte :=
  (reqs.reverse.find? fun r => r.kind == .write && r.reg == a).map fun r => r.wdata

/-- A request the block may emit: to the one device, at the address of a field, a READ with data 0, or a WRITE of the
encoding of a value in the field's range (R22, R41, R48, R49). -/
def LegalRequest (r : Request) : Prop :=
  r.dev = Config.devAddr ∧ ∃ f : Field, r.reg = addr f ∧
    ((r.kind = .read ∧ r.wdata = 0x00#8) ∨ (r.kind = .write ∧ ∃ v, inrange f v = true ∧ r.wdata = fenc f v))

/-- INVARIANT: everything on the wire is legal, and during a `SETT` every snapshot register is in range (R22, R226). -/
def WireSafe (s : State) : Prop :=
  (∀ r ∈ s.treqOut, LegalRequest r) ∧ (s.busy = true → s.op = .sett → AllInRange s.snap)

/-- The request whose answer a busy block waits for, by the sequencer and the snapshot (R29, R32). -/
def outstandingRequest (s : State) : Request :=
  match s.op with
  | .rd => readRequest s.idx
  | .wr => writeRequest s.idx (fenc s.idx (s.snap.get s.idx))
  | .gett => readRequest s.idx
  | .sett => writeRequest s.idx (fenc s.idx (s.snap.get s.idx))
  | .init => writeRequest .sec 0x80#8

/-- INVARIANT: while busy, the last request on the wire is the one the sequencer says is outstanding; `INIT` waits at the
seconds, with the snapshot reset (R29, R32, R240). -/
def Outstanding (s : State) : Prop :=
  s.busy = true →
    s.treqOut.getLast? = some (outstandingRequest s) ∧ (s.op = .init → s.idx = .sec ∧ s.snap = resetSnapshot)

/-- The largest value `fdec` can give each field (R129). -/
def largestRead (f : Field) : Byte :=
  match f with
  | .sec => 85#8
  | .min => 165#8
  | .hr => 125#8
  | .wd => 7#8
  | .dt => 165#8
  | .mon => 145#8
  | .yr => 165#8

/-- INVARIANT: no snapshot register is above what a read can put there (R20, R24, R129): the weekday's bits 7 to 3 are
zero, and nothing stored was ever truncated. -/
def SnapBounded (s : State) : Prop := ∀ f : Field, s.snap.get f ≤ largestRead f

end Sys2Proof.Machine
end

