-- ==== Sys2Proof/Certificates/Slice0/Obligations.lean ====
section
/-! DEFINITION. The statements for the provers, in the order of OBLIGATIONS.json: encoding, the codec, the fourteen field
codec commands, loads, reads, writes, the composites, `INIT`, exceptions and responses, the step, reset, invariants. -/

open Sys2Proof Sys2Proof.Machine

/-- The decoder reads back every command, with its operand at every value (R71 to R76). -/
def Obligations.DecodeOfEncodeIsIdentity : Prop :=
  ∀ i : Instr, decode (encode i) = .ok i

/-- A legal word is the word of the command it decodes to, so no two words decode to one command (R76). -/
def Obligations.EncodeOfDecodeIsIdentity : Prop :=
  ∀ (w : CmdWord) (i : Instr), decode w = .ok i → encode i = w

/-- R77 and R253: the words the decoder refuses are those of the five clauses, 0x0000 and 0xFFFF among them; accepted when
idle, such a word ends at once with result 0xC000 and changes nothing. -/
def Obligations.IllegalWordsAreThoseListed : Prop :=
  (∀ w : CmdWord, (∃ r, decode w = .error r) ↔
    (w.toNat / 4096 = 0 ∨ 0xB ≤ w.toNat / 4096) ∨
    ((w.toNat / 4096 = 1 ∨ w.toNat / 4096 = 2) ∧ w.toNat / 256 % 16 ≠ 0) ∨
    (3 ≤ w.toNat / 4096 ∧ w.toNat / 4096 ≤ 7 ∧ 7 ≤ w.toNat / 256 % 16) ∨
    ((w.toNat / 4096 = 6 ∨ w.toNat / 4096 = 7) ∧ w.toNat % 256 ≠ 0) ∨
    ((w.toNat / 4096 = 8 ∨ w.toNat / 4096 = 9 ∨ w.toNat / 4096 = 0xA) ∧
      (w.toNat / 256 % 16 ≠ 0 ∨ w.toNat % 256 ≠ 0))) ∧
  (∃ r, decode 0x0000#16 = .error r) ∧ (∃ r, decode 0xFFFF#16 = .error r) ∧
  ∀ (s : State) (w : CmdWord) (r : Reject) (rest : List Event), Idle s → s.inputs = .cmd w :: rest →
    decode w = .error r → EndsWith (step s) s s.snap 0xC000#16 rest

/-- The ten example words of R83 decode to the commands they are written for: a sanity statement. -/
def Obligations.WordsOfTheSpecDecode : Prop :=
  decode 0x1059#16 = .ok (.dec 0x59#8) ∧
  decode 0x203B#16 = .ok (.enc 59#8) ∧
  decode 0x30D9#16 = .ok (.fdecsec 0xD9#8) ∧
  decode 0x420D#16 = .ok (.fenchr 13#8) ∧
  decode 0x501E#16 = .ok (.ldsec 30#8) ∧
  decode 0x6600#16 = .ok (.rdyr) ∧
  decode 0x7500#16 = .ok (.wrmon) ∧
  decode 0x8000#16 = .ok (.gett) ∧
  decode 0x9000#16 = .ok (.sett) ∧
  decode 0xA000#16 = .ok (.init)

/-- The decoder and the opcode table agree (R74, R76): a command's word lies in the row of its mnemonic, every word of a row
decodes to a command of that mnemonic, and no two rows share a word. -/
def Obligations.OpcodeTableAgreesWithDecoder : Prop :=
  (∀ (w : CmdWord) (i : Instr), decode w = .ok i →
    ∃ r ∈ opcodeTable, r.mnemonic = i.mnemonic ∧ w &&& r.mask = r.pattern) ∧
  (∀ r ∈ opcodeTable, ∀ w : CmdWord, w &&& r.mask = r.pattern → ∃ i, decode w = .ok i ∧ i.mnemonic = r.mnemonic) ∧
  opcodeTable.Pairwise fun r r' => ∀ w : CmdWord, ¬(w &&& r.mask = r.pattern ∧ w &&& r'.mask = r'.pattern)

/-- R100 and R102: `DEC` returns `10 * b[7:4] + b[3:0]` for all 256 bytes, at most 165, and leaves everything else alone. -/
def Obligations.DecReturnsTensAndOnes : Prop :=
  ∀ (b : Byte) (s : State), Idle s →
    encode (.dec b) = 0x1000#16 + b.setWidth 16 ∧ 10 * (b.toNat / 16) + b.toNat % 16 ≤ 165 ∧
    (dec b).toNat = 10 * (b.toNat / 16) + b.toNat % 16 ∧
    EndsWith (exec (.dec b) s) s s.snap (BitVec.ofNat 16 (10 * (b.toNat / 16) + b.toNat % 16)) s.inputs

/-- R101 and R103: `ENC` returns the packed tens (four bits of them) and ones for all 256 values, without an error. -/
def Obligations.EncPacksTensAndOnes : Prop :=
  ∀ (v : Byte) (s : State), Idle s →
    encode (.enc v) = 0x2000#16 + v.setWidth 16 ∧
    (enc v).toNat = 16 * (v.toNat / 10 % 16) + v.toNat % 10 ∧
    EndsWith (exec (.enc v) s) s s.snap (BitVec.ofNat 16 (16 * (v.toNat / 10 % 16) + v.toNat % 10)) s.inputs

/-- R104: the two round-trip laws. -/
def Obligations.CodecRoundTrips : Prop :=
  (∀ v : Byte, v.toNat ≤ 99 → dec (enc v) = v) ∧
  ∀ b : Byte, b.toNat / 16 ≤ 9 → b.toNat % 16 ≤ 9 → enc (dec b) = b

/-- R107: from 100 to 159 decoding gives the value back; from 160 it gives the value less 160. -/
def Obligations.EncAbove99Truncates : Prop :=
  (∀ v : Byte, 100 ≤ v.toNat → v.toNat ≤ 159 → dec (enc v) = v) ∧
  ∀ v : Byte, 160 ≤ v.toNat → (dec (enc v)).toNat = v.toNat - 160

/-- R133 to R139: each `FDECx` masks its field's control bits, decodes (the weekday: masks only), and changes nothing else. -/
def Obligations.FdecCommandsMaskAndDecode : Prop :=
  ∀ (b : Byte) (s : State), Idle s →
    (encode (.fdecsec b) = 0x3000#16 + b.setWidth 16 ∧
      EndsWith (exec (.fdecsec b) s) s s.snap ((dec (b &&& 0x7F#8)).setWidth 16) s.inputs) ∧
    (encode (.fdecmin b) = 0x3100#16 + b.setWidth 16 ∧
      EndsWith (exec (.fdecmin b) s) s s.snap ((dec b).setWidth 16) s.inputs) ∧
    (encode (.fdechr b) = 0x3200#16 + b.setWidth 16 ∧
      EndsWith (exec (.fdechr b) s) s s.snap ((dec (b &&& 0xBF#8)).setWidth 16) s.inputs) ∧
    (encode (.fdecwd b) = 0x3300#16 + b.setWidth 16 ∧
      EndsWith (exec (.fdecwd b) s) s s.snap ((b &&& 0x07#8).setWidth 16) s.inputs) ∧
    (encode (.fdecdt b) = 0x3400#16 + b.setWidth 16 ∧
      EndsWith (exec (.fdecdt b) s) s s.snap ((dec b).setWidth 16) s.inputs) ∧
    (encode (.fdecmon b) = 0x3500#16 + b.setWidth 16 ∧
      EndsWith (exec (.fdecmon b) s) s s.snap ((dec (b &&& 0xDF#8)).setWidth 16) s.inputs) ∧
    (encode (.fdecyr b) = 0x3600#16 + b.setWidth 16 ∧
      EndsWith (exec (.fdecyr b) s) s s.snap ((dec b).setWidth 16) s.inputs)

/-- R140 to R146: each `FENCx` encodes (the weekday: the raw operand), forces its field's control bits, checks no range, and
changes nothing else. -/
def Obligations.FencCommandsEncodeAndForce : Prop :=
  ∀ (v : Byte) (s : State), Idle s →
    (encode (.fencsec v) = 0x4000#16 + v.setWidth 16 ∧
      EndsWith (exec (.fencsec v) s) s s.snap ((enc v ||| 0x80#8).setWidth 16) s.inputs) ∧
    (encode (.fencmin v) = 0x4100#16 + v.setWidth 16 ∧
      EndsWith (exec (.fencmin v) s) s s.snap ((enc v).setWidth 16) s.inputs) ∧
    (encode (.fenchr v) = 0x4200#16 + v.setWidth 16 ∧
      EndsWith (exec (.fenchr v) s) s s.snap ((enc v &&& 0xBF#8).setWidth 16) s.inputs) ∧
    (encode (.fencwd v) = 0x4300#16 + v.setWidth 16 ∧
      EndsWith (exec (.fencwd v) s) s s.snap (v.setWidth 16) s.inputs) ∧
    (encode (.fencdt v) = 0x4400#16 + v.setWidth 16 ∧
      EndsWith (exec (.fencdt v) s) s s.snap ((enc v).setWidth 16) s.inputs) ∧
    (encode (.fencmon v) = 0x4500#16 + v.setWidth 16 ∧
      EndsWith (exec (.fencmon v) s) s s.snap ((enc v &&& 0xDF#8).setWidth 16) s.inputs) ∧
    (encode (.fencyr v) = 0x4600#16 + v.setWidth 16 ∧
      EndsWith (exec (.fencyr v) s) s s.snap ((enc v).setWidth 16) s.inputs)

/-- R130: what is written and then read is the value, for every field and every value in its range. -/
def Obligations.FieldRoundTrip : Prop :=
  ∀ (f : Field) (v : Byte), inrange f v = true → fdec f (fenc f v) = v

/-- R129: the largest value a read can give each field; it is reached, fits 8 bits, and is above the field's range. -/
def Obligations.LargestDecodedValues : Prop :=
  ∀ f : Field, (∀ b : Byte, fdec f b ≤ largestRead f) ∧ fdec f 0xFF#8 = largestRead f ∧ fieldHi f < largestRead f

/-- R123 and R124: no bit is forced both ways, so OR and AND commute; and for a value in range the AND changes nothing. -/
def Obligations.ForcedBitsAreConsistent : Prop :=
  ∀ f : Field, wor f &&& ~~~(wand f) = 0#8 ∧
    (∀ e : Byte, (e ||| wor f) &&& wand f = (e &&& wand f) ||| wor f) ∧
    ∀ v : Byte, inrange f v = true → encodeRaw f v &&& wand f = encodeRaw f v

/-- R160 to R167: a load in the field's range stores the operand in that register alone and returns it; out of range it is
refused and stores nothing; no request either way. -/
def Obligations.LoadsStoreOrRefuse : Prop :=
  ∀ (v : Byte) (s : State), Idle s →
    (encode (.ldsec v) = 0x5000#16 + v.setWidth 16 ∧
      (v.toNat ≤ 59 → EndsWith (exec (.ldsec v) s) s (s.snap.set .sec v) (v.setWidth 16) s.inputs) ∧
      (¬(v.toNat ≤ 59) → EndsWith (exec (.ldsec v) s) s s.snap 0x8000#16 s.inputs)) ∧
    (encode (.ldmin v) = 0x5100#16 + v.setWidth 16 ∧
      (v.toNat ≤ 59 → EndsWith (exec (.ldmin v) s) s (s.snap.set .min v) (v.setWidth 16) s.inputs) ∧
      (¬(v.toNat ≤ 59) → EndsWith (exec (.ldmin v) s) s s.snap 0x8100#16 s.inputs)) ∧
    (encode (.ldhr v) = 0x5200#16 + v.setWidth 16 ∧
      (v.toNat ≤ 23 → EndsWith (exec (.ldhr v) s) s (s.snap.set .hr v) (v.setWidth 16) s.inputs) ∧
      (¬(v.toNat ≤ 23) → EndsWith (exec (.ldhr v) s) s s.snap 0x8200#16 s.inputs)) ∧
    (encode (.ldwd v) = 0x5300#16 + v.setWidth 16 ∧
      (v.toNat ≤ 6 → EndsWith (exec (.ldwd v) s) s (s.snap.set .wd v) (v.setWidth 16) s.inputs) ∧
      (¬(v.toNat ≤ 6) → EndsWith (exec (.ldwd v) s) s s.snap 0x8300#16 s.inputs)) ∧
    (encode (.lddt v) = 0x5400#16 + v.setWidth 16 ∧
      ((1 ≤ v.toNat ∧ v.toNat ≤ 31) → EndsWith (exec (.lddt v) s) s (s.snap.set .dt v) (v.setWidth 16) s.inputs) ∧
      (¬(1 ≤ v.toNat ∧ v.toNat ≤ 31) → EndsWith (exec (.lddt v) s) s s.snap 0x8400#16 s.inputs)) ∧
    (encode (.ldmon v) = 0x5500#16 + v.setWidth 16 ∧
      ((1 ≤ v.toNat ∧ v.toNat ≤ 12) → EndsWith (exec (.ldmon v) s) s (s.snap.set .mon v) (v.setWidth 16) s.inputs) ∧
      (¬(1 ≤ v.toNat ∧ v.toNat ≤ 12) → EndsWith (exec (.ldmon v) s) s s.snap 0x8500#16 s.inputs)) ∧
    (encode (.ldyr v) = 0x5600#16 + v.setWidth 16 ∧
      (v.toNat ≤ 99 → EndsWith (exec (.ldyr v) s) s (s.snap.set .yr v) (v.setWidth 16) s.inputs) ∧
      (¬(v.toNat ≤ 99) → EndsWith (exec (.ldyr v) s) s s.snap 0x8600#16 s.inputs))

/-- R180 to R187: a field read sends one READ at its register; the byte answered is masked, decoded, stored in its register
alone and returned, whatever its range; after a failure the snapshot is as it was. -/
def Obligations.ReadsAskMaskAndStore : Prop :=
  ∀ s : State, Idle s →
    (encode .rdsec = 0x6000#16 ∧
      WaitsWith (exec .rdsec s) s s.snap .rd .sec (readAt 0x00#8) s.inputs ∧
      ∀ t, exec .rdsec s = .next t →
        AnsweredWith t 0 s.snap (fun b => s.snap.set .sec (dec (b &&& 0x7F#8))) fun b => (dec (b &&& 0x7F#8)).setWidth 16) ∧
    (encode .rdmin = 0x6100#16 ∧
      WaitsWith (exec .rdmin s) s s.snap .rd .min (readAt 0x01#8) s.inputs ∧
      ∀ t, exec .rdmin s = .next t →
        AnsweredWith t 1 s.snap (fun b => s.snap.set .min (dec b)) fun b => (dec b).setWidth 16) ∧
    (encode .rdhr = 0x6200#16 ∧
      WaitsWith (exec .rdhr s) s s.snap .rd .hr (readAt 0x02#8) s.inputs ∧
      ∀ t, exec .rdhr s = .next t →
        AnsweredWith t 2 s.snap (fun b => s.snap.set .hr (dec (b &&& 0xBF#8))) fun b => (dec (b &&& 0xBF#8)).setWidth 16) ∧
    (encode .rdwd = 0x6300#16 ∧
      WaitsWith (exec .rdwd s) s s.snap .rd .wd (readAt 0x03#8) s.inputs ∧
      ∀ t, exec .rdwd s = .next t →
        AnsweredWith t 3 s.snap (fun b => s.snap.set .wd (b &&& 0x07#8)) fun b => (b &&& 0x07#8).setWidth 16) ∧
    (encode .rddt = 0x6400#16 ∧
      WaitsWith (exec .rddt s) s s.snap .rd .dt (readAt 0x04#8) s.inputs ∧
      ∀ t, exec .rddt s = .next t →
        AnsweredWith t 4 s.snap (fun b => s.snap.set .dt (dec b)) fun b => (dec b).setWidth 16) ∧
    (encode .rdmon = 0x6500#16 ∧
      WaitsWith (exec .rdmon s) s s.snap .rd .mon (readAt 0x05#8) s.inputs ∧
      ∀ t, exec .rdmon s = .next t →
        AnsweredWith t 5 s.snap (fun b => s.snap.set .mon (dec (b &&& 0xDF#8))) fun b => (dec (b &&& 0xDF#8)).setWidth 16) ∧
    (encode .rdyr = 0x6600#16 ∧
      WaitsWith (exec .rdyr s) s s.snap .rd .yr (readAt 0x06#8) s.inputs ∧
      ∀ t, exec .rdyr s = .next t →
        AnsweredWith t 6 s.snap (fun b => s.snap.set .yr (dec b)) fun b => (dec b).setWidth 16)

/-- R200 to R207: a field write of a value in range sends one WRITE of its encoding with the control bits forced; out of range
it is refused and sends nothing; it changes no snapshot register. -/
def Obligations.WritesCheckEncodeAndSend : Prop :=
  ∀ s : State, Idle s →
    (encode .wrsec = 0x7000#16 ∧
      (¬(s.snap.sec.toNat ≤ 59) → EndsWith (exec .wrsec s) s s.snap 0x8000#16 s.inputs) ∧
      (s.snap.sec.toNat ≤ 59 →
        WaitsWith (exec .wrsec s) s s.snap .wr .sec (writeAt 0x00#8 (enc s.snap.sec ||| 0x80#8)) s.inputs ∧
        ∀ t, exec .wrsec s = .next t → AnsweredWith t 0 s.snap (fun _ => s.snap) fun _ => 0x0000#16)) ∧
    (encode .wrmin = 0x7100#16 ∧
      (¬(s.snap.min.toNat ≤ 59) → EndsWith (exec .wrmin s) s s.snap 0x8100#16 s.inputs) ∧
      (s.snap.min.toNat ≤ 59 →
        WaitsWith (exec .wrmin s) s s.snap .wr .min (writeAt 0x01#8 (enc s.snap.min)) s.inputs ∧
        ∀ t, exec .wrmin s = .next t → AnsweredWith t 1 s.snap (fun _ => s.snap) fun _ => 0x0000#16)) ∧
    (encode .wrhr = 0x7200#16 ∧
      (¬(s.snap.hr.toNat ≤ 23) → EndsWith (exec .wrhr s) s s.snap 0x8200#16 s.inputs) ∧
      (s.snap.hr.toNat ≤ 23 →
        WaitsWith (exec .wrhr s) s s.snap .wr .hr (writeAt 0x02#8 (enc s.snap.hr &&& 0xBF#8)) s.inputs ∧
        ∀ t, exec .wrhr s = .next t → AnsweredWith t 2 s.snap (fun _ => s.snap) fun _ => 0x0000#16)) ∧
    (encode .wrwd = 0x7300#16 ∧
      (¬(s.snap.wd.toNat ≤ 6) → EndsWith (exec .wrwd s) s s.snap 0x8300#16 s.inputs) ∧
      (s.snap.wd.toNat ≤ 6 →
        WaitsWith (exec .wrwd s) s s.snap .wr .wd (writeAt 0x03#8 (s.snap.wd)) s.inputs ∧
        ∀ t, exec .wrwd s = .next t → AnsweredWith t 3 s.snap (fun _ => s.snap) fun _ => 0x0000#16)) ∧
    (encode .wrdt = 0x7400#16 ∧
      (¬(1 ≤ s.snap.dt.toNat ∧ s.snap.dt.toNat ≤ 31) → EndsWith (exec .wrdt s) s s.snap 0x8400#16 s.inputs) ∧
      ((1 ≤ s.snap.dt.toNat ∧ s.snap.dt.toNat ≤ 31) →
        WaitsWith (exec .wrdt s) s s.snap .wr .dt (writeAt 0x04#8 (enc s.snap.dt)) s.inputs ∧
        ∀ t, exec .wrdt s = .next t → AnsweredWith t 4 s.snap (fun _ => s.snap) fun _ => 0x0000#16)) ∧
    (encode .wrmon = 0x7500#16 ∧
      (¬(1 ≤ s.snap.mon.toNat ∧ s.snap.mon.toNat ≤ 12) → EndsWith (exec .wrmon s) s s.snap 0x8500#16 s.inputs) ∧
      ((1 ≤ s.snap.mon.toNat ∧ s.snap.mon.toNat ≤ 12) →
        WaitsWith (exec .wrmon s) s s.snap .wr .mon (writeAt 0x05#8 (enc s.snap.mon &&& 0xDF#8)) s.inputs ∧
        ∀ t, exec .wrmon s = .next t → AnsweredWith t 5 s.snap (fun _ => s.snap) fun _ => 0x0000#16)) ∧
    (encode .wryr = 0x7600#16 ∧
      (¬(s.snap.yr.toNat ≤ 99) → EndsWith (exec .wryr s) s s.snap 0x8600#16 s.inputs) ∧
      (s.snap.yr.toNat ≤ 99 →
        WaitsWith (exec .wryr s) s s.snap .wr .yr (writeAt 0x06#8 (enc s.snap.yr)) s.inputs ∧
        ∀ t, exec .wryr s = .next t → AnsweredWith t 6 s.snap (fun _ => s.snap) fun _ => 0x0000#16))

/-- R208: `LDx v; WRx; RDx` over a transport that returns the byte last written ends with `S[f]` = v and result v. -/
def Obligations.WriteThenReadReturnsTheValue : Prop :=
  ∀ (f : Field) (v d : Byte) (s : State) (rest : List Event), Idle s → inrange f v = true →
    s.inputs = .cmd (encode (ldOf f v)) :: .cmd (encode (wrOf f)) :: .tresp .success d :: rest →
    ∃ t b, steps 3 s = .next t ∧ Idle t ∧ t.inputs = rest ∧ lastWritten t.treqOut (addr f) = some b ∧
      ∀ rest', EndsWith (steps 2 { t with inputs := .cmd (encode (rdOf f)) :: .tresp .success b :: rest' })
        { t with treqOut := t.treqOut ++ [readAt (addr f)] } (s.snap.set f v) (v.setWidth 16) rest'

/-- R32, R222: an accepted `GETT` asks for the seconds first, and changes nothing else. -/
def Obligations.GettStartsAtTheSeconds : Prop :=
  ∀ s : State, Idle s →
    encode .gett = 0x8000#16 ∧ WaitsWith (exec .gett s) s s.snap .gett .sec (readAt 0x00#8) s.inputs

/-- R222: with seven successful answers `GETT` sends the seven reads in address order, stores the seven decoded bytes, and
ends with one result word 0. -/
def Obligations.GettReadsTheSevenFieldsInOrder : Prop :=
  ∀ (s : State) (b0 b1 b2 b3 b4 b5 b6 : Byte) (rest : List Event), Idle s →
    s.inputs = .cmd 0x8000#16 :: (answers [b0, b1, b2, b3, b4, b5, b6] ++ rest) →
    ∃ t, steps 8 s = .next t ∧
      t.snap = ⟨dec (b0 &&& 0x7F#8), dec b1, dec (b2 &&& 0xBF#8), b3 &&& 0x07#8, dec b4, dec (b5 &&& 0xDF#8), dec b6⟩ ∧
      t.busy = false ∧ t.inputs = rest ∧ t.resOut = s.resOut ++ [0x0000#16] ∧
      t.treqOut = s.treqOut ++ [readAt 0x00#8, readAt 0x01#8, readAt 0x02#8, readAt 0x03#8, readAt 0x04#8, readAt 0x05#8,
        readAt 0x06#8]

/-- R223, R33: when the read of field number k fails, the fields below k are new, the others as before, no request above k
was sent, and the one result is TransportFailure of field k. -/
def Obligations.GettStopsAtTheFirstFailure : Prop :=
  ∀ (s : State) (ds : List Byte) (o : TransportOutcome) (d : Byte) (rest : List Event), Idle s → ds.length ≤ 6 →
    o ≠ .success → s.inputs = .cmd 0x8000#16 :: (answers ds ++ .tresp o d :: rest) →
    ∃ t, steps (ds.length + 2) s = .next t ∧ (∀ f b, ds[fieldIndex f]? = some b → t.snap.get f = fdec f b) ∧
      (∀ f, ds.length ≤ fieldIndex f → t.snap.get f = s.snap.get f) ∧ t.busy = false ∧ t.inputs = rest ∧
      t.resOut = s.resOut ++ [failureWord o ds.length] ∧
      t.treqOut = s.treqOut ++ (compositeOrder.take (ds.length + 1)).map fun f => readAt (addr f)

/-- R226, R228: `SETT` with every field in range sends the seconds' write first; with a field out of range it sends nothing and
reports the first such field. -/
def Obligations.SettChecksAllBeforeTheFirstWrite : Prop :=
  ∀ s : State, Idle s →
    encode .sett = 0x9000#16 ∧
    (AllInRange s.snap → WaitsWith (exec .sett s) s s.snap .sett .sec (writeAt 0x00#8 (enc s.snap.sec ||| 0x80#8)) s.inputs) ∧
    ∀ f : Field, inrange f (s.snap.get f) = false →
      (∀ g, fieldIndex g < fieldIndex f → inrange g (s.snap.get g) = true) →
      EndsWith (exec .sett s) s s.snap (BitVec.ofNat 16 (0x8000 + 0x100 * fieldIndex f)) s.inputs

/-- R226: with every field in range and seven successful answers `SETT` sends the seven writes in address order, changes no
snapshot register, and ends with one result word 0. -/
def Obligations.SettWritesTheSevenFieldsInOrder : Prop :=
  ∀ (s : State) (ds : List Byte) (rest : List Event), Idle s → AllInRange s.snap → ds.length = 7 →
    s.inputs = .cmd 0x9000#16 :: (answers ds ++ rest) →
    ∃ t, steps 8 s = .next t ∧ t.snap = s.snap ∧ t.busy = false ∧ t.inputs = rest ∧ t.resOut = s.resOut ++ [0x0000#16] ∧
      t.treqOut = s.treqOut ++ [writeAt 0x00#8 (enc s.snap.sec ||| 0x80#8), writeAt 0x01#8 (enc s.snap.min),
        writeAt 0x02#8 (enc s.snap.hr &&& 0xBF#8), writeAt 0x03#8 s.snap.wd, writeAt 0x04#8 (enc s.snap.dt),
        writeAt 0x05#8 (enc s.snap.mon &&& 0xDF#8), writeAt 0x06#8 (enc s.snap.yr)]

/-- R227, R33: when the write of field number k fails, the writes of the fields up to k were sent and none above, the snapshot
is as it was, and the one result is TransportFailure of field k. -/
def Obligations.SettStopsAtTheFirstFailure : Prop :=
  ∀ (s : State) (ds : List Byte) (o : TransportOutcome) (d : Byte) (rest : List Event), Idle s → AllInRange s.snap →
    ds.length ≤ 6 → o ≠ .success → s.inputs = .cmd 0x9000#16 :: (answers ds ++ .tresp o d :: rest) →
    ∃ t, steps (ds.length + 2) s = .next t ∧ t.snap = s.snap ∧ t.busy = false ∧ t.inputs = rest ∧
      t.resOut = s.resOut ++ [failureWord o ds.length] ∧
      t.treqOut = s.treqOut ++
        (compositeOrder.take (ds.length + 1)).map fun f => writeAt (addr f) (fenc f (s.snap.get f))

/-- R229: `GETT` and the seven field reads, with the same seven bytes, leave the same snapshot and send the same requests. -/
def Obligations.GettAgreesWithSevenReads : Prop :=
  ∀ (s : State) (b0 b1 b2 b3 b4 b5 b6 : Byte), Idle s →
    ∃ t u, steps 8 { s with inputs := .cmd 0x8000#16 :: answers [b0, b1, b2, b3, b4, b5, b6] } = .next t ∧
      steps 14 { s with inputs := [.cmd 0x6000#16, .tresp .success b0] ++
        [.cmd 0x6100#16, .tresp .success b1] ++
        [.cmd 0x6200#16, .tresp .success b2] ++
        [.cmd 0x6300#16, .tresp .success b3] ++
        [.cmd 0x6400#16, .tresp .success b4] ++
        [.cmd 0x6500#16, .tresp .success b5] ++
        [.cmd 0x6600#16, .tresp .success b6] } = .next u ∧
      t.snap = u.snap ∧ t.treqOut = u.treqOut ∧ t.busy = u.busy

/-- R229: `SETT` with all fields in range and the seven field writes send the same requests and leave the same snapshot. -/
def Obligations.SettAgreesWithSevenWrites : Prop :=
  ∀ (s : State) (b0 b1 b2 b3 b4 b5 b6 : Byte), Idle s → AllInRange s.snap →
    ∃ t u, steps 8 { s with inputs := .cmd 0x9000#16 :: answers [b0, b1, b2, b3, b4, b5, b6] } = .next t ∧
      steps 14 { s with inputs := [.cmd 0x7000#16, .tresp .success b0] ++
        [.cmd 0x7100#16, .tresp .success b1] ++
        [.cmd 0x7200#16, .tresp .success b2] ++
        [.cmd 0x7300#16, .tresp .success b3] ++
        [.cmd 0x7400#16, .tresp .success b4] ++
        [.cmd 0x7500#16, .tresp .success b5] ++
        [.cmd 0x7600#16, .tresp .success b6] } = .next u ∧
      t.snap = u.snap ∧ t.treqOut = u.treqOut ∧ t.busy = u.busy

/-- R29, R221: a busy block that is still busy after a step has waited, unchanged (the wait as a step is log 9, DEDUCED), or is a composite that went on to the next
index; the index never goes back and never passes 6. -/
def Obligations.SequencerAdvancesByOne : Prop :=
  ∀ s t : State, s.busy = true → step s = .next t → t.busy = true →
    t = s ∨ (t.op = s.op ∧ (s.op = .gett ∨ s.op = .sett) ∧ fieldIndex t.idx = fieldIndex s.idx + 1)

/-- R240: `INIT` sets the snapshot to (0, 0, 0, 0, 1, 1, 0) in its first step and sends the one WRITE of 0x80 at 0x00; the
snapshot stays so whether or not the write succeeds. -/
def Obligations.InitResetsAndStartsTheOscillator : Prop :=
  ∀ s : State, Idle s →
    encode .init = 0xA000#16 ∧
    WaitsWith (exec .init s) s ⟨0, 0, 0, 0, 1, 1, 0⟩ .init .sec (writeAt 0x00#8 0x80#8) s.inputs ∧
    ∀ t, exec .init s = .next t →
      AnsweredWith t 0 ⟨0, 0, 0, 0, 1, 1, 0⟩ (fun _ => ⟨0, 0, 0, 0, 1, 1, 0⟩) fun _ => 0x0000#16

/-- R242: but for `SEQ.op`, `INIT` is a snapshot reset followed by `WRSEC`. -/
def Obligations.InitIsResetThenSecondsWrite : Prop :=
  ∀ s : State, Idle s →
    ∃ t u, exec .init s = .next t ∧ exec .wrsec { s with snap := ⟨0, 0, 0, 0, 1, 1, 0⟩ } = .next u ∧ u = { t with op := .wr }

/-- R243 (90_conflicts.md C2): after `INIT` and `GETT` the seconds are 0 when register 0 returns the byte `INIT` wrote; the other
fields are what the transport returns, the reset values only if it returns them. -/
def Obligations.InitThenGettReadsThePeripheral : Prop :=
  ∀ (s : State) (d b1 b2 b3 b4 b5 b6 : Byte) (rest : List Event), Idle s →
    s.inputs = .cmd 0xA000#16 :: .tresp .success d :: .cmd 0x8000#16 :: (answers [0x80#8, b1, b2, b3, b4, b5, b6] ++ rest) →
    ∃ t, steps 10 s = .next t ∧ t.resOut = s.resOut ++ [0x0000#16, 0x0000#16] ∧ t.inputs = rest ∧
      t.snap = ⟨0, dec b1, dec (b2 &&& 0xBF#8), b3 &&& 0x07#8, dec b4, dec (b5 &&& 0xDF#8), dec b6⟩ ∧
      (b1 = 0x00#8 → b2 = 0x00#8 → b3 &&& 0x07#8 = 0#8 → b4 = 0x01#8 → b5 = 0x01#8 → b6 = 0x00#8 →
        t.snap = ⟨0, 0, 0, 0, 1, 1, 0⟩) ∧
      (b4 = 0x00#8 → t.snap.dt = 0)

/-- R33, R251: a response that is not SUCCESS ends any of the five kinds of command with TransportFailure of field `SEQ.idx` and
that cause; no snapshot register is written, no request sent, and the data is ignored. -/
def Obligations.FailedResponseEndsTheCommand : Prop :=
  ∀ (s : State) (o : TransportOutcome) (d : Byte) (rest : List Event), s.busy = true → o ≠ .success →
    s.inputs = .tresp o d :: rest →
    EndsWith (step s) s s.snap (failureWord o (fieldIndex s.idx)) rest

/-- R34: the five rows of the table for a response with outcome SUCCESS. -/
def Obligations.SuccessfulResponseByKind : Prop :=
  ∀ (s : State) (d : Byte) (rest : List Event), s.busy = true → s.inputs = .tresp .success d :: rest →
    (s.op = .rd → EndsWith (step s) s (s.snap.set s.idx (fdec s.idx d)) ((fdec s.idx d).setWidth 16) rest) ∧
    (s.op = .wr → EndsWith (step s) s s.snap 0x0000#16 rest) ∧
    (s.op = .init → EndsWith (step s) s s.snap 0x0000#16 rest) ∧
    (s.op = .gett → s.idx = .yr → EndsWith (step s) s (s.snap.set .yr (fdec .yr d)) 0x0000#16 rest) ∧
    (s.op = .gett → ∀ g, fieldIndex g = fieldIndex s.idx + 1 →
      WaitsWith (step s) s (s.snap.set s.idx (fdec s.idx d)) .gett g (readAt (addr g)) rest) ∧
    (s.op = .sett → s.idx = .yr → EndsWith (step s) s s.snap 0x0000#16 rest) ∧
    (s.op = .sett → ∀ g, fieldIndex g = fieldIndex s.idx + 1 →
      WaitsWith (step s) s s.snap .sett g (writeAt (addr g) (fenc g (s.snap.get g))) rest)

/-- R30: a response that arrives when the block is idle changes no state and produces no output. -/
def Obligations.IdleResponseIsDiscarded : Prop :=
  ∀ (s : State) (o : TransportOutcome) (d : Byte) (rest : List Event), Idle s → s.inputs = .tresp o d :: rest →
    step s = .next { s with inputs := rest }

/-- R30, as the model renders it (log 1): a word presented while busy has no step of its own; the step is that of the inputs
behind it, and the word is still first afterwards. -/
def Obligations.BusyCommandStaysPresented : Prop :=
  ∀ (s t : State) (w : CmdWord) (rest : List Event), s.busy = true → s.inputs = .cmd w :: rest →
    step { s with inputs := rest } = .next t → step s = .next { t with inputs := .cmd w :: t.inputs }

/-- No state stops the machine: every step answers a next state. This is the model's choice, and no rule's words: that the
block has no fault is log 13 (DEDUCED, from what the rules say of exceptions), and that a step with no enabled event is a
next state, the wait, is log 9 (DEDUCED; the spec gives a step only on an event). -/
def Obligations.EveryStepAnswersNext : Prop :=
  ∀ s : State, ∃ t, step s = .next t

/-- R30, R35: a step emits nothing and changes at most to idle (a wait, which as a step is log 9, DEDUCED; a discard; a reset); or one request, and the block waits;
or one result word, and the command has ended. -/
def Obligations.OneStepEmitsAtMostOneOfEach : Prop :=
  ∀ s t : State, step s = .next t →
    (t.treqOut = s.treqOut ∧ t.resOut = s.resOut ∧ (t.busy = s.busy ∨ t.busy = false)) ∨
    (∃ r, t.treqOut = s.treqOut ++ [r] ∧ t.resOut = s.resOut ∧ t.busy = true) ∨
    (∃ w, t.treqOut = s.treqOut ∧ t.resOut = s.resOut ++ [w] ∧ t.busy = false)

/-- R31, R32: when the block is idle and the word presented first decodes to a command, the step is that command. -/
def Obligations.StepRunsTheDecodedCommand : Prop :=
  ∀ (s : State) (w : CmdWord) (i : Instr) (rest : List Event), Idle s → s.inputs = .cmd w :: rest → decode w = .ok i →
    step s = exec i { s with inputs := rest }

/-- A word placed by `withFetchWord` is the very next command to run, from any state (the model's own, log 8). -/
def Obligations.PresentedWordRunsNext : Prop :=
  ∀ (s : State) (w : CmdWord) (i : Instr), decode w = .ok i →
    step (s.withFetchWord 16 w.toNat) = exec i { s with busy := false }

/-- R25, R26, R291: after reset the snapshot is (0, 0, 0, Monday, 1, 1, 0), the block is idle, and nothing was emitted. -/
def Obligations.ResetStateIsAsSpecified : Prop :=
  State.reset.snap = ⟨0, 0, 0, 0, 1, 1, 0⟩ ∧ weekdayOfIndex (State.reset.snapOut .wd) = some .monday ∧
    State.reset.busy = false ∧ State.reset.treqOut = [] ∧ State.reset.resOut = []

/-- R290: the reset input, at any time, sets the snapshot to `RST` and the block idle, and emits nothing; the response to the
abandoned request is then discarded. -/
def Obligations.ResetInputAbandonsTheCommand : Prop :=
  ∀ (s : State) (rest : List Event), s.inputs = .reset :: rest →
    ∃ t, step s = .next t ∧ t.snap = ⟨0, 0, 0, 0, 1, 1, 0⟩ ∧ t.busy = false ∧ t.inputs = rest ∧
      t.treqOut = s.treqOut ∧ t.resOut = s.resOut ∧
      ∀ o d rest', rest = .tresp o d :: rest' → step t = .next { t with inputs := rest' }

/-- Headline (R22, R49, R122, R226): every step keeps that all requests ever emitted are legal: only the seven registers are
addressed, and only encodings of values in range are written. -/
def Obligations.WireSafeIsKept : Prop :=
  ∀ s t : State, WireSafe s → step s = .next t → WireSafe t

/-- The reset state is wire safe. -/
def Obligations.WireSafeAtReset : Prop :=
  WireSafe State.reset

/-- Headline (R29, R32, R64): every step keeps that a busy block's last request is the one its sequencer says is outstanding. -/
def Obligations.OutstandingIsKept : Prop :=
  ∀ s t : State, Outstanding s → step s = .next t → Outstanding t

/-- The reset state meets the invariant of the outstanding request. -/
def Obligations.OutstandingAtReset : Prop :=
  Outstanding State.reset

/-- Headline (R20, R24, R129): every step keeps each snapshot register at most the largest value a read can give it. -/
def Obligations.SnapBoundedIsKept : Prop :=
  ∀ s t : State, SnapBounded s → step s = .next t → SnapBounded t

/-- The reset state meets the bounds. -/
def Obligations.SnapBoundedAtReset : Prop :=
  SnapBounded State.reset

/-- R122, R304: in a wire-safe state every byte written to the seconds has bit 7 set, to the hours bit 6 clear, to the month
bit 5 clear, and to the weekday bits 7 to 3 clear. -/
def Obligations.WrittenControlBitsFollowThePolicy : Prop :=
  ∀ (s : State) (r : Request), WireSafe s → r ∈ s.treqOut → r.kind = .write →
    (r.reg = 0x00#8 → r.wdata.getLsbD 7 = true) ∧ (r.reg = 0x02#8 → r.wdata.getLsbD 6 = false) ∧
    (r.reg = 0x05#8 → r.wdata.getLsbD 5 = false) ∧ (r.reg = 0x03#8 → r.wdata &&& 0xF8#8 = 0#8)

/-- R35, R221, R46: from any busy state, seven responses at the head of the inputs, whatever they say, end the command within
seven steps. -/
def Obligations.BusyEndsWithinSevenAnswers : Prop :=
  ∀ (s : State) (rs : List (TransportOutcome × Byte)) (rest : List Event), s.busy = true → rs.length = 7 →
    s.inputs = (rs.map fun p => Event.tresp p.1 p.2) ++ rest → ∃ k t, k ≤ 7 ∧ steps k s = .next t ∧ t.busy = false

/-- R23, the accepting step: a command changes register f in its first step only if it is `INIT` or the load of f. -/
def Obligations.OnlyInitAndLoadsWriteAtOnce : Prop :=
  ∀ (i : Instr) (s t : State) (f : Field), exec i s = .next t → t.snap.get f ≠ s.snap.get f →
    i = .init ∨ ∃ v, i = ldOf f v

/-- R23, the response: it changes register f only when busy with `RD` or `GETT` at field f and the outcome is SUCCESS. -/
def Obligations.ResponseWritesOnlyItsOwnField : Prop :=
  ∀ (s t : State) (o : TransportOutcome) (d : Byte) (rest : List Event) (f : Field), s.inputs = .tresp o d :: rest →
    step s = .next t → t.snap.get f ≠ s.snap.get f →
    s.busy = true ∧ o = .success ∧ f = s.idx ∧ (s.op = .rd ∨ s.op = .gett)

/-- R33, R34, R42: the data of a response is ignored when the outcome is not SUCCESS, when the command writes, and when idle:
the step is the same for any two bytes. -/
def Obligations.IgnoredDataHasNoEffect : Prop :=
  ∀ (s : State) (o : TransportOutcome) (d d' : Byte) (rest : List Event),
    (o ≠ .success ∨ s.op = .wr ∨ s.op = .sett ∨ s.op = .init ∨ s.busy = false) →
    step { s with inputs := .tresp o d :: rest } = step { s with inputs := .tresp o d' :: rest }

/-- R131 over the whole state: two responses whose bytes differ only in bits the field's read mask clears give the same step. -/
def Obligations.MaskedBitsHaveNoEffect : Prop :=
  ∀ (s : State) (o : TransportOutcome) (d d' : Byte) (rest : List Event), d &&& rmask s.idx = d' &&& rmask s.idx →
    step { s with inputs := .tresp o d :: rest } = step { s with inputs := .tresp o d' :: rest }

/-- R259: after an exception the block is idle, and the next command does exactly what it does after a command that ended with
OK from the same state. -/
def Obligations.NoExceptionIsSticky : Prop :=
  ∀ (e : BlockException) (v : Byte) (s : State) (i : Instr),
    Idle (raise e s) ∧ ∃ t u ws, exec i (raise e s) = .next t ∧ exec i (finish v s) = .next u ∧ t.snap = u.snap ∧ t.busy = u.busy ∧
      (t.busy = true → t.op = u.op ∧ t.idx = u.idx) ∧ t.inputs = u.inputs ∧ t.treqOut = u.treqOut ∧
      t.resOut = (raise e s).resOut ++ ws ∧ u.resOut = (finish v s).resOut ++ ws

/-- R83, R84, read as log 14 says (DESIGN CHOICE: white space, digits, and `SETx` as two words, the second sent by the host):
the ten example lines of R83 and one with a comment; for every operand in 0 to 255 the seven `SETx v` as `LDx v` then `WRx`,
and `decode v` and `encode v`; the seven `GETx` as `RDx`; `get_time`, `set_time` and `init`. -/
def Obligations.AssemblerExpandsThePseudoInstructions : Prop :=
  (assemble "DEC 0x59".toList = .ok [0x1059#16] ∧
    assemble "ENC 59".toList = .ok [0x203B#16] ∧
    assemble "FDECSEC 0xD9".toList = .ok [0x30D9#16] ∧
    assemble "FENCHR 13".toList = .ok [0x420D#16] ∧
    assemble "LDSEC 30".toList = .ok [0x501E#16] ∧
    assemble "RDYR".toList = .ok [0x6600#16] ∧
    assemble "WRMON".toList = .ok [0x7500#16] ∧
    assemble "GETT".toList = .ok [0x8000#16] ∧
    assemble "SETT".toList = .ok [0x9000#16] ∧
    assemble "INIT".toList = .ok [0xA000#16] ∧
    assemble "GETYR ; the year".toList = .ok [0x6600#16]) ∧
  (∀ v : Nat, v ≤ 255 →
    assembleLine ⟨"SETSEC", some v⟩ = .ok [BitVec.ofNat 16 (0x5000 + v), 0x7000#16] ∧
    assembleLine ⟨"SETMIN", some v⟩ = .ok [BitVec.ofNat 16 (0x5100 + v), 0x7100#16] ∧
    assembleLine ⟨"SETHR", some v⟩ = .ok [BitVec.ofNat 16 (0x5200 + v), 0x7200#16] ∧
    assembleLine ⟨"SETWD", some v⟩ = .ok [BitVec.ofNat 16 (0x5300 + v), 0x7300#16] ∧
    assembleLine ⟨"SETDT", some v⟩ = .ok [BitVec.ofNat 16 (0x5400 + v), 0x7400#16] ∧
    assembleLine ⟨"SETMON", some v⟩ = .ok [BitVec.ofNat 16 (0x5500 + v), 0x7500#16] ∧
    assembleLine ⟨"SETYR", some v⟩ = .ok [BitVec.ofNat 16 (0x5600 + v), 0x7600#16] ∧
    assembleLine ⟨"decode", some v⟩ = .ok [BitVec.ofNat 16 (0x1000 + v)] ∧
    assembleLine ⟨"encode", some v⟩ = .ok [BitVec.ofNat 16 (0x2000 + v)]) ∧
  assembleLine ⟨"GETSEC", none⟩ = .ok [0x6000#16] ∧
  assembleLine ⟨"GETMIN", none⟩ = .ok [0x6100#16] ∧
  assembleLine ⟨"GETHR", none⟩ = .ok [0x6200#16] ∧
  assembleLine ⟨"GETWD", none⟩ = .ok [0x6300#16] ∧
  assembleLine ⟨"GETDT", none⟩ = .ok [0x6400#16] ∧
  assembleLine ⟨"GETMON", none⟩ = .ok [0x6500#16] ∧
  assembleLine ⟨"GETYR", none⟩ = .ok [0x6600#16] ∧
  assembleLine ⟨"get_time", none⟩ = .ok [0x8000#16] ∧
  assembleLine ⟨"set_time", none⟩ = .ok [0x9000#16] ∧
  assembleLine ⟨"init", none⟩ = .ok [0xA000#16]

/-- R24, R21: the indices that name a day are those in the weekday's range; 7 names none. -/
def Obligations.WeekdayIndexNamesADay : Prop :=
  (∀ v : Byte, (weekdayOfIndex v).isSome = true ↔ inrange .wd v = true) ∧ weekdayOfIndex 7#8 = none
end

