-- ==== Sys2Proof/Laws/Codec.lean ====
section
/-! SUPPORT. What the pure functions compute, once: the codec as natural numbers (R100, R101, R105), the composite order
(R220, R221), and the result words as the numbers of R82. -/

namespace Sys2Proof.Machine

theorem dec_toNat (b : Byte) : (dec b).toNat = 10 * (b.toNat / 16) + b.toNat % 16 := by
  have h := b.isLt
  simp only [dec, highNibble, lowNibble, BitVec.toNat_ofNat]
  omega

theorem enc_toNat (v : Byte) : (enc v).toNat = v.toNat / 10 % 16 * 16 + v.toNat % 10 := by
  have h := v.isLt
  simp only [enc, BitVec.toNat_ofNat]
  omega

/-- The range check as numbers (R128). -/
theorem inrange_iff (f : Field) (v : Byte) :
    inrange f v = true ↔ (fieldLo f).toNat ≤ v.toNat ∧ v.toNat ≤ (fieldHi f).toNat := by
  simp [inrange, BitVec.le_def]

/-- Every reset value is in range (R25). -/
theorem inrange_rst (f : Field) : inrange f (rst f) = true := by cases f <;> decide

/-- A composite goes on to the next index, and ends after the year (R221). -/
theorem nextField_cases (f : Field) :
    (nextField f = none ∧ f = .yr) ∨ ∃ g, nextField f = some g ∧ fieldIndex g = fieldIndex f + 1 := by
  cases f <;> simp [nextField, fieldAfter, compositeOrder, fieldIndex]

theorem nextField_index {f g : Field} (h : nextField f = some g) : fieldIndex g = fieldIndex f + 1 := by
  rcases nextField_cases f with ⟨hn, _⟩ | ⟨g', hg', hi⟩
  · rw [hn] at h; cases h
  · rw [hg'] at h; cases h; exact hi

@[simp] theorem nextField_yr : nextField .yr = none := rfl

theorem fieldIndex_le (f : Field) : fieldIndex f ≤ 6 := by cases f <;> decide

theorem fieldIndex_inj {f g : Field} (h : fieldIndex f = fieldIndex g) : f = g := by
  cases f <;> cases g <;> first | rfl | exact absurd h (by decide)

theorem okWord_eq (v : Byte) : okWord v = v.setWidth 16 := by
  revert v; decide

theorem outOfRangeWord_eq (f : Field) :
    exceptionWord (.outOfRangeValue f) = BitVec.ofNat 16 (0x8000 + 0x100 * fieldIndex f) := by cases f <;> rfl

/-- The table of R120, field by field, as the masks of R133 to R146. -/
theorem fdec_eq (b : Byte) :
    fdec .sec b = dec (b &&& 0x7F#8) ∧ fdec .min b = dec b ∧ fdec .hr b = dec (b &&& 0xBF#8) ∧
    fdec .wd b = b &&& 0x07#8 ∧ fdec .dt b = dec b ∧ fdec .mon b = dec (b &&& 0xDF#8) ∧ fdec .yr b = dec b := by
  revert b; decide

theorem fenc_eq (v : Byte) :
    fenc .sec v = enc v ||| 0x80#8 ∧ fenc .min v = enc v ∧ fenc .hr v = enc v &&& 0xBF#8 ∧
    fenc .wd v = v ∧ fenc .dt v = enc v ∧ fenc .mon v = enc v &&& 0xDF#8 ∧ fenc .yr v = enc v := by
  revert v; decide

theorem failureWord_eq (f : Field) :
    exceptionWord (.transportFailure f .failure) = BitVec.ofNat 16 (0x5000 + 0x100 * fieldIndex f) := by
  cases f <;> rfl

theorem timeoutWord_eq (f : Field) :
    exceptionWord (.transportFailure f .timeout) = BitVec.ofNat 16 (0x6000 + 0x100 * fieldIndex f) := by
  cases f <;> rfl

theorem illegalWord_eq : exceptionWord .illegalCommand = 0xC000#16 := rfl

end Sys2Proof.Machine
end

