-- ==== Sys2Proof/Laws/State.lean ====
section
/-! SUPPORT. The small lemmas of the snapshot and the state: what each shared update leaves in each field, by rfl, so that
no later proof unfolds a record update. -/

namespace Sys2Proof.Machine

@[simp] theorem Snapshot.get_set_same (S : Snapshot) (f : Field) (v : Byte) : (S.set f v).get f = v := by
  cases f <;> rfl

@[simp] theorem Snapshot.get_set_ne (S : Snapshot) {f g : Field} (v : Byte) (h : g ≠ f) :
    (S.set f v).get g = S.get g := by
  cases f <;> cases g <;> first | rfl | exact absurd rfl h

theorem Snapshot.get_set (S : Snapshot) (f g : Field) (v : Byte) :
    (S.set f v).get g = if g = f then v else S.get g := by
  by_cases h : g = f
  · subst h; simp
  · simp [h]

/-- Two snapshots with the same seven registers are one. -/
theorem Snapshot.ext_get {S T : Snapshot} (h : ∀ f, S.get f = T.get f) : S = T := by
  cases S; cases T
  simp only [Snapshot.mk.injEq]
  exact ⟨h .sec, h .min, h .hr, h .wd, h .dt, h .mon, h .yr⟩

@[simp] theorem get_resetSnapshot (f : Field) : resetSnapshot.get f = rst f := by cases f <;> rfl

@[simp] theorem snap_setField (f : Field) (v : Byte) (s : State) : (setField f v s).snap = s.snap.set f v := rfl
@[simp] theorem busy_setField (f : Field) (v : Byte) (s : State) : (setField f v s).busy = s.busy := rfl
@[simp] theorem op_setField (f : Field) (v : Byte) (s : State) : (setField f v s).op = s.op := rfl
@[simp] theorem idx_setField (f : Field) (v : Byte) (s : State) : (setField f v s).idx = s.idx := rfl
@[simp] theorem inputs_setField (f : Field) (v : Byte) (s : State) : (setField f v s).inputs = s.inputs := rfl
@[simp] theorem treqOut_setField (f : Field) (v : Byte) (s : State) : (setField f v s).treqOut = s.treqOut := rfl
@[simp] theorem resOut_setField (f : Field) (v : Byte) (s : State) : (setField f v s).resOut = s.resOut := rfl
@[simp] theorem free_setField (f : Field) (v : Byte) (s : State) : (setField f v s).free = s.free := rfl

@[simp] theorem snap_emitRequest (r : Request) (s : State) : (emitRequest r s).snap = s.snap := rfl
@[simp] theorem busy_emitRequest (r : Request) (s : State) : (emitRequest r s).busy = s.busy := rfl
@[simp] theorem op_emitRequest (r : Request) (s : State) : (emitRequest r s).op = s.op := rfl
@[simp] theorem idx_emitRequest (r : Request) (s : State) : (emitRequest r s).idx = s.idx := rfl
@[simp] theorem inputs_emitRequest (r : Request) (s : State) : (emitRequest r s).inputs = s.inputs := rfl
@[simp] theorem treqOut_emitRequest (r : Request) (s : State) : (emitRequest r s).treqOut = s.treqOut ++ [r] := rfl
@[simp] theorem resOut_emitRequest (r : Request) (s : State) : (emitRequest r s).resOut = s.resOut := rfl
@[simp] theorem free_emitRequest (r : Request) (s : State) : (emitRequest r s).free = s.free := rfl

@[simp] theorem snap_emitResult (w : ResultWord) (s : State) : (emitResult w s).snap = s.snap := rfl
@[simp] theorem busy_emitResult (w : ResultWord) (s : State) : (emitResult w s).busy = s.busy := rfl
@[simp] theorem op_emitResult (w : ResultWord) (s : State) : (emitResult w s).op = s.op := rfl
@[simp] theorem idx_emitResult (w : ResultWord) (s : State) : (emitResult w s).idx = s.idx := rfl
@[simp] theorem inputs_emitResult (w : ResultWord) (s : State) : (emitResult w s).inputs = s.inputs := rfl
@[simp] theorem treqOut_emitResult (w : ResultWord) (s : State) : (emitResult w s).treqOut = s.treqOut := rfl
@[simp] theorem resOut_emitResult (w : ResultWord) (s : State) : (emitResult w s).resOut = s.resOut ++ [w] := rfl
@[simp] theorem free_emitResult (w : ResultWord) (s : State) : (emitResult w s).free = s.free := rfl

@[simp] theorem snap_becomeIdle (s : State) : (becomeIdle s).snap = s.snap := rfl
@[simp] theorem busy_becomeIdle (s : State) : (becomeIdle s).busy = false := rfl
@[simp] theorem inputs_becomeIdle (s : State) : (becomeIdle s).inputs = s.inputs := rfl
@[simp] theorem treqOut_becomeIdle (s : State) : (becomeIdle s).treqOut = s.treqOut := rfl
@[simp] theorem resOut_becomeIdle (s : State) : (becomeIdle s).resOut = s.resOut := rfl

@[simp] theorem snap_becomeBusy (op : SeqOp) (f : Field) (s : State) : (becomeBusy op f s).snap = s.snap := rfl
@[simp] theorem busy_becomeBusy (op : SeqOp) (f : Field) (s : State) : (becomeBusy op f s).busy = true := rfl
@[simp] theorem op_becomeBusy (op : SeqOp) (f : Field) (s : State) : (becomeBusy op f s).op = op := rfl
@[simp] theorem idx_becomeBusy (op : SeqOp) (f : Field) (s : State) : (becomeBusy op f s).idx = f := rfl
@[simp] theorem inputs_becomeBusy (op : SeqOp) (f : Field) (s : State) : (becomeBusy op f s).inputs = s.inputs := rfl
@[simp] theorem treqOut_becomeBusy (op : SeqOp) (f : Field) (s : State) : (becomeBusy op f s).treqOut = s.treqOut := rfl
@[simp] theorem resOut_becomeBusy (op : SeqOp) (f : Field) (s : State) : (becomeBusy op f s).resOut = s.resOut := rfl
@[simp] theorem free_becomeBusy (op : SeqOp) (f : Field) (s : State) : (becomeBusy op f s).free = s.free := rfl

@[simp] theorem snap_finish (v : Byte) (s : State) : (finish v s).snap = s.snap := rfl
@[simp] theorem busy_finish (v : Byte) (s : State) : (finish v s).busy = false := rfl
@[simp] theorem inputs_finish (v : Byte) (s : State) : (finish v s).inputs = s.inputs := rfl
@[simp] theorem treqOut_finish (v : Byte) (s : State) : (finish v s).treqOut = s.treqOut := rfl
@[simp] theorem resOut_finish (v : Byte) (s : State) : (finish v s).resOut = s.resOut ++ [okWord v] := rfl

@[simp] theorem snap_raise (e : BlockException) (s : State) : (raise e s).snap = s.snap := rfl
@[simp] theorem busy_raise (e : BlockException) (s : State) : (raise e s).busy = false := rfl
@[simp] theorem inputs_raise (e : BlockException) (s : State) : (raise e s).inputs = s.inputs := rfl
@[simp] theorem treqOut_raise (e : BlockException) (s : State) : (raise e s).treqOut = s.treqOut := rfl
@[simp] theorem resOut_raise (e : BlockException) (s : State) : (raise e s).resOut = s.resOut ++ [exceptionWord e] := rfl

@[simp] theorem snap_hardwareReset (s : State) : (hardwareReset s).snap = resetSnapshot := rfl
@[simp] theorem busy_hardwareReset (s : State) : (hardwareReset s).busy = false := rfl
@[simp] theorem inputs_hardwareReset (s : State) : (hardwareReset s).inputs = s.inputs := rfl
@[simp] theorem treqOut_hardwareReset (s : State) : (hardwareReset s).treqOut = s.treqOut := rfl
@[simp] theorem resOut_hardwareReset (s : State) : (hardwareReset s).resOut = s.resOut := rfl

@[simp] theorem snap_issueRead (op : SeqOp) (f : Field) (s : State) : (issueRead op f s).snap = s.snap := rfl
@[simp] theorem busy_issueRead (op : SeqOp) (f : Field) (s : State) : (issueRead op f s).busy = true := rfl
@[simp] theorem op_issueRead (op : SeqOp) (f : Field) (s : State) : (issueRead op f s).op = op := rfl
@[simp] theorem idx_issueRead (op : SeqOp) (f : Field) (s : State) : (issueRead op f s).idx = f := rfl
@[simp] theorem inputs_issueRead (op : SeqOp) (f : Field) (s : State) : (issueRead op f s).inputs = s.inputs := rfl
@[simp] theorem treqOut_issueRead (op : SeqOp) (f : Field) (s : State) : (issueRead op f s).treqOut = s.treqOut ++ [readRequest f] := rfl
@[simp] theorem resOut_issueRead (op : SeqOp) (f : Field) (s : State) : (issueRead op f s).resOut = s.resOut := rfl

@[simp] theorem snap_issueWrite (op : SeqOp) (f : Field) (v : Byte) (s : State) : (issueWrite op f v s).snap = s.snap := rfl
@[simp] theorem busy_issueWrite (op : SeqOp) (f : Field) (v : Byte) (s : State) : (issueWrite op f v s).busy = true := rfl
@[simp] theorem op_issueWrite (op : SeqOp) (f : Field) (v : Byte) (s : State) : (issueWrite op f v s).op = op := rfl
@[simp] theorem idx_issueWrite (op : SeqOp) (f : Field) (v : Byte) (s : State) : (issueWrite op f v s).idx = f := rfl
@[simp] theorem inputs_issueWrite (op : SeqOp) (f : Field) (v : Byte) (s : State) : (issueWrite op f v s).inputs = s.inputs := rfl
@[simp] theorem treqOut_issueWrite (op : SeqOp) (f : Field) (v : Byte) (s : State) : (issueWrite op f v s).treqOut = s.treqOut ++ [writeRequest f v] := rfl
@[simp] theorem resOut_issueWrite (op : SeqOp) (f : Field) (v : Byte) (s : State) : (issueWrite op f v s).resOut = s.resOut := rfl

@[simp] theorem snap_issueFieldWrite (op : SeqOp) (f : Field) (s : State) : (issueFieldWrite op f s).snap = s.snap := rfl
@[simp] theorem busy_issueFieldWrite (op : SeqOp) (f : Field) (s : State) : (issueFieldWrite op f s).busy = true := rfl
@[simp] theorem op_issueFieldWrite (op : SeqOp) (f : Field) (s : State) : (issueFieldWrite op f s).op = op := rfl
@[simp] theorem idx_issueFieldWrite (op : SeqOp) (f : Field) (s : State) : (issueFieldWrite op f s).idx = f := rfl
@[simp] theorem inputs_issueFieldWrite (op : SeqOp) (f : Field) (s : State) : (issueFieldWrite op f s).inputs = s.inputs := rfl
@[simp] theorem treqOut_issueFieldWrite (op : SeqOp) (f : Field) (s : State) : (issueFieldWrite op f s).treqOut = s.treqOut ++ [writeRequest f (fenc f (s.snap.get f))] := rfl
@[simp] theorem resOut_issueFieldWrite (op : SeqOp) (f : Field) (s : State) : (issueFieldWrite op f s).resOut = s.resOut := rfl

end Sys2Proof.Machine
end

