-- ==== Sys2Proof/Laws/Ops.lean ====
section
/-! SUPPORT. What each shared operation can do, said once: the loads, the writes, the start of `SETT`, the answer to a
response, the choice of the next event; and the eight shapes of an accepted command. -/

namespace Sys2Proof.Machine

/-- A load ends the command: stored and OK, or refused (R160). -/
theorem loadField_cases (f : Field) (v : Byte) (s : State) :
    (inrange f v = true ∧ loadField f v s = finish v (setField f v s)) ∨
    (inrange f v = false ∧ loadField f v s = raise (.outOfRangeValue f) s) := by
  cases h : inrange f v <;> simp [loadField, h]

/-- A field write waits with its one request, or is refused (R200). -/
theorem writeField_cases (f : Field) (s : State) :
    (inrange f (s.snap.get f) = true ∧ writeField f s = issueFieldWrite .wr f s) ∨
    (inrange f (s.snap.get f) = false ∧ writeField f s = raise (.outOfRangeValue f) s) := by
  cases h : inrange f (s.snap.get f) <;> simp [writeField, h]

theorem mem_compositeOrder (f : Field) : f ∈ compositeOrder := by cases f <;> decide

/-- No field is reported exactly when all seven are in range (R226). -/
theorem firstOutOfRange_none (S : Snapshot) : firstOutOfRange S = none ↔ ∀ f, inrange f (S.get f) = true := by
  unfold firstOutOfRange
  rw [List.find?_eq_none]
  constructor
  · intro h f
    simpa using h f (mem_compositeOrder f)
  · intro h f _
    simp [h f]

/-- The field reported is out of range (R226). -/
theorem firstOutOfRange_some {S : Snapshot} {f : Field} (h : firstOutOfRange S = some f) :
    inrange f (S.get f) = false := by
  have := List.find?_some h
  simpa using this

/-- `SETT` waits with the seconds' write, or is refused (R226, R228). -/
theorem startSett_cases (s : State) :
    ((∀ f, inrange f (s.snap.get f) = true) ∧ startSett s = issueFieldWrite .sett .sec s) ∨
    ∃ f, firstOutOfRange s.snap = some f ∧ startSett s = raise (.outOfRangeValue f) s := by
  unfold startSett
  cases h : firstOutOfRange s.snap with
  | none => exact .inl ⟨(firstOutOfRange_none _).1 h, rfl⟩
  | some f => exact .inr ⟨f, rfl, rfl⟩

/-- What an accepted command can do in its first step (R31, R32): end with a value, load, be refused, or wait. -/
inductive FirstStep (s : State) : Instr → State → Prop where
  | value (i : Instr) (v : Byte) : FirstStep s i (finish v s)
  | load (f : Field) (v : Byte) (h : inrange f v = true) : FirstStep s (ldOf f v) (finish v (setField f v s))
  | refused (i : Instr) (f : Field) : FirstStep s i (raise (.outOfRangeValue f) s)
  | read (f : Field) : FirstStep s (rdOf f) (issueRead .rd f s)
  | write (f : Field) (h : inrange f (s.snap.get f) = true) : FirstStep s (wrOf f) (issueFieldWrite .wr f s)
  | gett : FirstStep s .gett (issueRead .gett .sec s)
  | sett (h : ∀ f, inrange f (s.snap.get f) = true) : FirstStep s .sett (issueFieldWrite .sett .sec s)
  | init : FirstStep s .init (issueWrite .init .sec 0x80#8 { s with snap := resetSnapshot })

theorem firstStep_load (f : Field) (v : Byte) (s : State) : FirstStep s (ldOf f v) (loadField f v s) := by
  rcases loadField_cases f v s with ⟨h, e⟩ | ⟨_, e⟩ <;> rw [e]
  · exact .load f v h
  · exact .refused _ f

theorem firstStep_write (f : Field) (s : State) : FirstStep s (wrOf f) (writeField f s) := by
  rcases writeField_cases f s with ⟨h, e⟩ | ⟨_, e⟩ <;> rw [e]
  · exact .write f h
  · exact .refused _ f

theorem firstStep_sett (s : State) : FirstStep s .sett (startSett s) := by
  rcases startSett_cases s with ⟨h, e⟩ | ⟨f, _, e⟩ <;> rw [e]
  · exact .sett h
  · exact .refused _ f

/-- Inversion of `exec`: a next state is one of the eight shapes. -/
theorem exec_cases {i : Instr} {s t : State} (h : exec i s = .next t) : FirstStep s i t := by
  cases i with
  | dec v => injection h with h; exact h ▸ .value _ _
  | enc v => injection h with h; exact h ▸ .value _ _
  | fdecsec v => injection h with h; exact h ▸ .value _ _
  | fdecmin v => injection h with h; exact h ▸ .value _ _
  | fdechr v => injection h with h; exact h ▸ .value _ _
  | fdecwd v => injection h with h; exact h ▸ .value _ _
  | fdecdt v => injection h with h; exact h ▸ .value _ _
  | fdecmon v => injection h with h; exact h ▸ .value _ _
  | fdecyr v => injection h with h; exact h ▸ .value _ _
  | fencsec v => injection h with h; exact h ▸ .value _ _
  | fencmin v => injection h with h; exact h ▸ .value _ _
  | fenchr v => injection h with h; exact h ▸ .value _ _
  | fencwd v => injection h with h; exact h ▸ .value _ _
  | fencdt v => injection h with h; exact h ▸ .value _ _
  | fencmon v => injection h with h; exact h ▸ .value _ _
  | fencyr v => injection h with h; exact h ▸ .value _ _
  | ldsec v => injection h with h; exact h ▸ firstStep_load .sec v s
  | ldmin v => injection h with h; exact h ▸ firstStep_load .min v s
  | ldhr v => injection h with h; exact h ▸ firstStep_load .hr v s
  | ldwd v => injection h with h; exact h ▸ firstStep_load .wd v s
  | lddt v => injection h with h; exact h ▸ firstStep_load .dt v s
  | ldmon v => injection h with h; exact h ▸ firstStep_load .mon v s
  | ldyr v => injection h with h; exact h ▸ firstStep_load .yr v s
  | rdsec => injection h with h; exact h ▸ .read .sec
  | rdmin => injection h with h; exact h ▸ .read .min
  | rdhr => injection h with h; exact h ▸ .read .hr
  | rdwd => injection h with h; exact h ▸ .read .wd
  | rddt => injection h with h; exact h ▸ .read .dt
  | rdmon => injection h with h; exact h ▸ .read .mon
  | rdyr => injection h with h; exact h ▸ .read .yr
  | wrsec => injection h with h; exact h ▸ firstStep_write .sec s
  | wrmin => injection h with h; exact h ▸ firstStep_write .min s
  | wrhr => injection h with h; exact h ▸ firstStep_write .hr s
  | wrwd => injection h with h; exact h ▸ firstStep_write .wd s
  | wrdt => injection h with h; exact h ▸ firstStep_write .dt s
  | wrmon => injection h with h; exact h ▸ firstStep_write .mon s
  | wryr => injection h with h; exact h ▸ firstStep_write .yr s
  | gett => injection h with h; exact h ▸ .gett
  | sett => injection h with h; exact h ▸ firstStep_sett s
  | init => injection h with h; exact h ▸ .init

/-- Everything a response can do (R30, R33, R34). -/
theorem onResponse_cases (o : TransportOutcome) (d : Byte) (s : State) :
    (s.busy = false ∧ onResponse o d s = s) ∨
    (s.busy = true ∧ ∃ c, causeOf o = some c ∧ onResponse o d s = raise (.transportFailure s.idx c) s) ∨
    (s.busy = true ∧ o = .success ∧ onResponse o d s = onSuccess d s) := by
  cases hb : s.busy
  · exact .inl ⟨rfl, by simp [onResponse, hb]⟩
  · cases o
    · exact .inr (.inr ⟨rfl, rfl, by simp [onResponse, hb, causeOf]⟩)
    · exact .inr (.inl ⟨rfl, .failure, rfl, by simp [onResponse, hb, causeOf]⟩)
    · exact .inr (.inl ⟨rfl, .timeout, rfl, by simp [onResponse, hb, causeOf]⟩)

/-- What SUCCESS does, by `SEQ.op` (R34): the command ends, or the composite goes on to the next index. -/
theorem onSuccess_cases (d : Byte) (s : State) :
    (s.op = .rd ∧ onSuccess d s = finish (fdec s.idx d) (storeRead d s)) ∨
    ((s.op = .wr ∨ s.op = .init) ∧ onSuccess d s = finish 0#8 s) ∨
    (s.op = .gett ∧ s.idx = .yr ∧ onSuccess d s = finish 0#8 (storeRead d s)) ∨
    (s.op = .gett ∧ ∃ f, nextField s.idx = some f ∧ onSuccess d s = issueRead .gett f (storeRead d s)) ∨
    (s.op = .sett ∧ s.idx = .yr ∧ onSuccess d s = finish 0#8 s) ∨
    (s.op = .sett ∧ ∃ f, nextField s.idx = some f ∧ onSuccess d s = issueFieldWrite .sett f s) := by
  cases ho : s.op
  · exact .inl ⟨rfl, by simp [onSuccess, ho, respondRd, storeRead]⟩
  · exact .inr (.inl ⟨.inl rfl, by simp [onSuccess, ho, respondWr]⟩)
  · rcases nextField_cases s.idx with ⟨hn, hy⟩ | ⟨f, hn, _⟩
    · exact .inr (.inr (.inl ⟨rfl, hy, by simp [onSuccess, ho, respondGett, hn]⟩))
    · exact .inr (.inr (.inr (.inl ⟨rfl, f, hn, by simp [onSuccess, ho, respondGett, hn]⟩)))
  · rcases nextField_cases s.idx with ⟨hn, hy⟩ | ⟨f, hn, _⟩
    · exact .inr (.inr (.inr (.inr (.inl ⟨rfl, hy, by simp [onSuccess, ho, respondSett, hn]⟩))))
    · exact .inr (.inr (.inr (.inr (.inr ⟨rfl, f, hn, by simp [onSuccess, ho, respondSett, hn]⟩))))
  · exact .inr (.inl ⟨.inr rfl, by simp [onSuccess, ho, respondInit]⟩)

@[simp] theorem takeEvent_nil (b : Bool) : takeEvent b [] = none := rfl

@[simp] theorem takeEvent_tresp (b : Bool) (o : TransportOutcome) (d : Byte) (rest : List Event) :
    takeEvent b (.tresp o d :: rest) = some (.tresp o d, rest) := rfl

@[simp] theorem takeEvent_reset (b : Bool) (rest : List Event) :
    takeEvent b (.reset :: rest) = some (.reset, rest) := rfl

@[simp] theorem takeEvent_cmd_idle (w : CmdWord) (rest : List Event) :
    takeEvent false (.cmd w :: rest) = some (.cmd w, rest) := rfl

/-- While busy no command word is taken (R30). -/
theorem takeEvent_busy_not_cmd {inputs left : List Event} {w : CmdWord} :
    takeEvent true inputs ≠ some (.cmd w, left) := by
  induction inputs generalizing left with
  | nil => simp
  | cons e rest ih =>
    cases e with
    | cmd w' =>
      cases h : takeEvent true rest with
      | none => simp [takeEvent, h]
      | some p =>
        obtain ⟨e', l'⟩ := p
        simp only [takeEvent, h, if_true]
        intro hc
        obtain ⟨rfl, rfl⟩ : e' = .cmd w ∧ .cmd w' :: l' = left := by simpa using hc
        exact ih h
    | tresp o d => simp
    | reset => simp

end Sys2Proof.Machine
end

