-- ==== Sys2Proof/Laws/PerInstr.lean ====
section
/-! SUPPORT. The family WordFields: the three fields of a command's word are those its row gives it (R71). -/

namespace Sys2Proof

theorem append_toNat {n m : Nat} (x : BitVec n) (y : BitVec m) : (x ++ y).toNat = x.toNat * 2 ^ m + y.toNat := by
  rw [BitVec.toNat_append, ← Nat.shiftLeft_add_eq_or_of_lt y.isLt, Nat.shiftLeft_eq]

/-- A command word as a number (R71). -/
theorem packWord_toNat (op fsel : BitVec 4) (imm8 : Byte) :
    (packWord op fsel imm8).toNat = op.toNat * 4096 + fsel.toNat * 256 + imm8.toNat := by
  unfold packWord
  rw [append_toNat, append_toNat]
  ring

theorem opField_toNat (w : CmdWord) : (opField w).toNat = w.toNat / 4096 := by
  have h := w.isLt
  simp only [opField, BitVec.extractLsb'_toNat, Nat.shiftRight_eq_div_pow]
  omega

theorem fselField_toNat (w : CmdWord) : (fselField w).toNat = w.toNat / 256 % 16 := by
  simp only [fselField, BitVec.extractLsb'_toNat, Nat.shiftRight_eq_div_pow]

theorem immField_toNat (w : CmdWord) : (immField w).toNat = w.toNat % 256 := by
  simp [immField, BitVec.extractLsb'_toNat]

theorem opField_packWord (op fsel : BitVec 4) (imm8 : Byte) : opField (packWord op fsel imm8) = op := by
  apply BitVec.eq_of_toNat_eq
  rw [opField_toNat, packWord_toNat]
  omega

theorem fselField_packWord (op fsel : BitVec 4) (imm8 : Byte) : fselField (packWord op fsel imm8) = fsel := by
  apply BitVec.eq_of_toNat_eq
  rw [fselField_toNat, packWord_toNat]
  omega

theorem immField_packWord (op fsel : BitVec 4) (imm8 : Byte) : immField (packWord op fsel imm8) = imm8 := by
  apply BitVec.eq_of_toNat_eq
  rw [immField_toNat, packWord_toNat]
  omega

/-- A word is put together from its own three fields (R71). -/
theorem packWord_fields (w : CmdWord) : packWord (opField w) (fselField w) (immField w) = w := by
  apply BitVec.eq_of_toNat_eq
  rw [packWord_toNat, opField_toNat, fselField_toNat, immField_toNat]
  omega

/-- The word of `i` has `i`'s three fields. -/
def Laws.WordFields.Statement (i : Instr) : Prop :=
  opField (encode i) = i.fields.1 ∧ fselField (encode i) = i.fields.2.1 ∧ immField (encode i) = i.fields.2.2

theorem Laws.WordFields.of_pack (i : Instr) : Laws.WordFields.Statement i :=
  ⟨opField_packWord _ _ _, fselField_packWord _ _ _, immField_packWord _ _ _⟩

theorem Laws.WordFields.dec (imm8 : Byte) : Laws.WordFields.Statement (.dec imm8) := of_pack _
theorem Laws.WordFields.enc (imm8 : Byte) : Laws.WordFields.Statement (.enc imm8) := of_pack _
theorem Laws.WordFields.fdecsec (imm8 : Byte) : Laws.WordFields.Statement (.fdecsec imm8) := of_pack _
theorem Laws.WordFields.fdecmin (imm8 : Byte) : Laws.WordFields.Statement (.fdecmin imm8) := of_pack _
theorem Laws.WordFields.fdechr (imm8 : Byte) : Laws.WordFields.Statement (.fdechr imm8) := of_pack _
theorem Laws.WordFields.fdecwd (imm8 : Byte) : Laws.WordFields.Statement (.fdecwd imm8) := of_pack _
theorem Laws.WordFields.fdecdt (imm8 : Byte) : Laws.WordFields.Statement (.fdecdt imm8) := of_pack _
theorem Laws.WordFields.fdecmon (imm8 : Byte) : Laws.WordFields.Statement (.fdecmon imm8) := of_pack _
theorem Laws.WordFields.fdecyr (imm8 : Byte) : Laws.WordFields.Statement (.fdecyr imm8) := of_pack _
theorem Laws.WordFields.fencsec (imm8 : Byte) : Laws.WordFields.Statement (.fencsec imm8) := of_pack _
theorem Laws.WordFields.fencmin (imm8 : Byte) : Laws.WordFields.Statement (.fencmin imm8) := of_pack _
theorem Laws.WordFields.fenchr (imm8 : Byte) : Laws.WordFields.Statement (.fenchr imm8) := of_pack _
theorem Laws.WordFields.fencwd (imm8 : Byte) : Laws.WordFields.Statement (.fencwd imm8) := of_pack _
theorem Laws.WordFields.fencdt (imm8 : Byte) : Laws.WordFields.Statement (.fencdt imm8) := of_pack _
theorem Laws.WordFields.fencmon (imm8 : Byte) : Laws.WordFields.Statement (.fencmon imm8) := of_pack _
theorem Laws.WordFields.fencyr (imm8 : Byte) : Laws.WordFields.Statement (.fencyr imm8) := of_pack _
theorem Laws.WordFields.ldsec (imm8 : Byte) : Laws.WordFields.Statement (.ldsec imm8) := of_pack _
theorem Laws.WordFields.ldmin (imm8 : Byte) : Laws.WordFields.Statement (.ldmin imm8) := of_pack _
theorem Laws.WordFields.ldhr (imm8 : Byte) : Laws.WordFields.Statement (.ldhr imm8) := of_pack _
theorem Laws.WordFields.ldwd (imm8 : Byte) : Laws.WordFields.Statement (.ldwd imm8) := of_pack _
theorem Laws.WordFields.lddt (imm8 : Byte) : Laws.WordFields.Statement (.lddt imm8) := of_pack _
theorem Laws.WordFields.ldmon (imm8 : Byte) : Laws.WordFields.Statement (.ldmon imm8) := of_pack _
theorem Laws.WordFields.ldyr (imm8 : Byte) : Laws.WordFields.Statement (.ldyr imm8) := of_pack _
theorem Laws.WordFields.rdsec : Laws.WordFields.Statement .rdsec := of_pack _
theorem Laws.WordFields.rdmin : Laws.WordFields.Statement .rdmin := of_pack _
theorem Laws.WordFields.rdhr : Laws.WordFields.Statement .rdhr := of_pack _
theorem Laws.WordFields.rdwd : Laws.WordFields.Statement .rdwd := of_pack _
theorem Laws.WordFields.rddt : Laws.WordFields.Statement .rddt := of_pack _
theorem Laws.WordFields.rdmon : Laws.WordFields.Statement .rdmon := of_pack _
theorem Laws.WordFields.rdyr : Laws.WordFields.Statement .rdyr := of_pack _
theorem Laws.WordFields.wrsec : Laws.WordFields.Statement .wrsec := of_pack _
theorem Laws.WordFields.wrmin : Laws.WordFields.Statement .wrmin := of_pack _
theorem Laws.WordFields.wrhr : Laws.WordFields.Statement .wrhr := of_pack _
theorem Laws.WordFields.wrwd : Laws.WordFields.Statement .wrwd := of_pack _
theorem Laws.WordFields.wrdt : Laws.WordFields.Statement .wrdt := of_pack _
theorem Laws.WordFields.wrmon : Laws.WordFields.Statement .wrmon := of_pack _
theorem Laws.WordFields.wryr : Laws.WordFields.Statement .wryr := of_pack _
theorem Laws.WordFields.gett : Laws.WordFields.Statement .gett := of_pack _
theorem Laws.WordFields.sett : Laws.WordFields.Statement .sett := of_pack _
theorem Laws.WordFields.init : Laws.WordFields.Statement .init := of_pack _

end Sys2Proof
end

