-- ==== Sys2Proof/Laws/Step.lean ====
section
/-! SUPPORT. What one step can do, said once (R30): it waits, it takes a command, it takes a response, or it is reset. Every
invariant is derived from this inversion. -/

namespace Sys2Proof.Machine

/-- A step that answers a next state did one of five things. -/
theorem step_cases {s t : State} (h : step s = .next t) :
    (takeEvent s.busy s.inputs = none ∧ t = s) ∨
    (∃ w left i, s.busy = false ∧ s.inputs = .cmd w :: left ∧ decode w = .ok i ∧
      exec i { s with inputs := left } = .next t) ∨
    (∃ w left r, s.busy = false ∧ s.inputs = .cmd w :: left ∧ decode w = .error r ∧
      t = raise .illegalCommand { s with inputs := left }) ∨
    (∃ o d left, takeEvent s.busy s.inputs = some (.tresp o d, left) ∧
      t = onResponse o d { s with inputs := left }) ∨
    (∃ left, takeEvent s.busy s.inputs = some (.reset, left) ∧ t = hardwareReset { s with inputs := left }) := by
  unfold step takeStep at h
  cases he : takeEvent s.busy s.inputs with
  | none =>
    rw [he] at h
    injection h with h
    exact .inl ⟨rfl, h.symm⟩
  | some p =>
    obtain ⟨e, left⟩ := p
    rw [he] at h
    cases e with
    | cmd w =>
      have hb : s.busy = false := by
        cases hb : s.busy
        · rfl
        · rw [hb] at he
          exact absurd he takeEvent_busy_not_cmd
      have hin : s.inputs = .cmd w :: left := by
        rw [hb] at he
        cases hin : s.inputs with
        | nil => simp [hin] at he
        | cons e' rest =>
          cases e' <;> simp_all
      simp only [onEvent, onCommand] at h
      cases hd : decode w with
      | ok i =>
        rw [hd] at h
        exact .inr (.inl ⟨w, left, i, hb, hin, hd, h⟩)
      | error r =>
        rw [hd] at h
        injection h with h
        exact .inr (.inr (.inl ⟨w, left, r, hb, hin, hd, h.symm⟩))
    | tresp o d =>
      injection h with h
      exact .inr (.inr (.inr (.inl ⟨o, d, left, rfl, h.symm⟩)))
    | reset =>
      injection h with h
      exact .inr (.inr (.inr (.inr ⟨left, rfl, h.symm⟩)))

/-- The step on a response at the head of the inputs. -/
theorem step_tresp {s : State} {o : TransportOutcome} {d : Byte} {rest : List Event}
    (h : s.inputs = .tresp o d :: rest) : step s = .next (onResponse o d { s with inputs := rest }) := by
  simp [step, takeStep, h, onEvent]

/-- The step on SUCCESS while a `GETT` has a field to go on to. -/
theorem step_gett_next {s : State} {d : Byte} {rest : List Event} {g : Field} (hb : s.busy = true) (ho : s.op = .gett)
    (hg : nextField s.idx = some g) (h : s.inputs = .tresp .success d :: rest) :
    step s = .next (issueRead .gett g (storeRead d { s with inputs := rest })) := by
  rw [step_tresp h]
  simp [onResponse, hb, causeOf, onSuccess, ho, respondGett, hg]

/-- The step on SUCCESS while a `SETT` has a field to go on to. -/
theorem step_sett_next {s : State} {d : Byte} {rest : List Event} {g : Field} (hb : s.busy = true) (ho : s.op = .sett)
    (hg : nextField s.idx = some g) (h : s.inputs = .tresp .success d :: rest) :
    step s = .next (issueFieldWrite .sett g { s with inputs := rest }) := by
  rw [step_tresp h]
  simp [onResponse, hb, causeOf, onSuccess, ho, respondSett, hg]

/-- The step on a command word when idle. -/
theorem step_cmd {s : State} {w : CmdWord} {rest : List Event} (hb : s.busy = false)
    (h : s.inputs = .cmd w :: rest) : step s = onCommand w { s with inputs := rest } := by
  simp [step, takeStep, h, hb, onEvent]

end Sys2Proof.Machine
end

