-- ==== Sys2Proof/WellFormed.lean ====
section
/-! DEFINITION. What counts as well formed. Every term of `Instr` is: its one operand has the width of the operand field
by its type (R75). The checks stand where an ill-formed thing can be written down: a command word (R77), and an assembler
line's number (R83). `illegalWord` is the list of R77 alone; what the decoder accepts is the list of R76. -/

namespace Sys2Proof

/-- A word is illegal when one of the five clauses of R77 holds. -/
def illegalWord (w : CmdWord) : Bool :=
  reservedOp w || codecWithFsel w || fieldOutOfRange w || fieldCommandWithImm w || bareCommandWithFields w

/-- A command word is well formed when R77 does not make it illegal. -/
def wellFormedWord (w : CmdWord) : Bool := !illegalWord w

/-- R83: "The operand is a number 0 to 255". -/
def AsmLine.operandFits (l : AsmLine) : Bool :=
  match l.operand with
  | none => true
  | some n => n ≤ 255

end Sys2Proof
end

