-- ==== Sys2Proof/Tests/Slice0.lean ====
section
/-! SUPPORT. The model's own tests: the well-formedness checks refuse one ill-formed thing each; decoding of words written
out bit by bit from R71 to R74; one-step tests whose expected results are the vectors of spec/95_test_vectors.md; and, for
every obligation with hypotheses, a concrete state and operands that meet them. -/

namespace Sys2Proof.Tests

open Sys2Proof Sys2Proof.Machine

/-- The reset snapshot. -/
def S0 : Snapshot := ⟨0, 0, 0, 0, 1, 1, 0⟩

/-- The full time of vector V9. -/
def S1 : Snapshot := ⟨30, 45, 13, 2, 10, 11, 26⟩

/-- The largest legal value of every field (V9). -/
def S2 : Snapshot := ⟨59, 59, 23, 6, 31, 12, 99⟩

/-- Every field just above its range. -/
def S3 : Snapshot := ⟨60, 60, 24, 7, 32, 13, 100⟩

/-- An idle block with this snapshot and these inputs. -/
def idle (S : Snapshot) (inputs : List Event) : State := { State.reset with snap := S, inputs := inputs }

/-- A block that waits in a command of kind `op` at field `f`. -/
def busy (op : SeqOp) (f : Field) (S : Snapshot) (inputs : List Event) : State :=
  { State.reset with snap := S, inputs := inputs, busy := true, op := op, idx := f }

/-- The next state of an outcome, if it is one. -/
def nextOf (o : StepOutcome) : Option State :=
  match o with
  | .next t => some t
  | .fault _ => none
  | .refused _ => none

/-- The result words emitted. -/
def resultsOf (o : StepOutcome) : Option (List ResultWord) := (nextOf o).map fun t => t.resOut

/-- The requests emitted: kind, register, data. -/
def wireOf (o : StepOutcome) : Option (List (ReqKind × Byte × Byte)) :=
  (nextOf o).map fun t => t.treqOut.map fun r => (r.kind, r.reg, r.wdata)

/-- The snapshot after. -/
def snapOf (o : StepOutcome) : Option Snapshot := (nextOf o).map fun t => t.snap

/-- One step on a command word, from an idle block with snapshot `S`. -/
def run (S : Snapshot) (w : CmdWord) : StepOutcome := step ((idle S []).withFetchWord 16 w.toNat)

/-- One step on a response, from a block that waits in a command of kind `op` at field `f`. -/
def answer (op : SeqOp) (f : Field) (S : Snapshot) (o : TransportOutcome) (d : Byte) : StepOutcome :=
  step (busy op f S [.tresp o d])

/-! Well-formedness: each clause of R77 alone refuses a word, and an assembler operand above 255 does not fit (R83). -/

theorem test_illformed_reserved_op_zero : wellFormedWord 0x0000#16 = false := by decide
theorem test_illformed_reserved_op_high : wellFormedWord 0xB000#16 = false := by decide
theorem test_illformed_codec_fsel : wellFormedWord 0x1100#16 = false := by decide
theorem test_illformed_field_seven : wellFormedWord 0x3700#16 = false := by decide
theorem test_illformed_field_command_imm : wellFormedWord 0x6001#16 = false := by decide
theorem test_illformed_bare_fsel : wellFormedWord 0x8100#16 = false := by decide
theorem test_illformed_bare_imm : wellFormedWord 0xA001#16 = false := by decide
theorem test_wellformed_last_field : wellFormedWord 0x56FF#16 = true := by decide
theorem test_asm_operand_256 : AsmLine.operandFits ⟨"DEC", some 256⟩ = false := by decide
theorem test_asm_operand_255 : AsmLine.operandFits ⟨"DEC", some 255⟩ = true := by decide
theorem test_reject_names :
    decode 0xF123#16 = .error .reservedOp ∧ decode 0x2F00#16 = .error .codecWithFsel ∧
    decode 0x5700#16 = .error .fieldOutOfRange ∧ decode 0x7180#16 = .error .fieldCommandWithImm ∧
    decode 0x9001#16 = .error .bareCommandWithFields := by decide

/-! Decoding: `op` 4 bits, `fsel` 4 bits, `imm8` 8 bits, written out in binary from R71 to R74. -/

theorem test_decode_codec :
    decode 0b0001000001011001#16 = .ok (.dec 0x59#8) ∧ decode 0b0010000000111011#16 = .ok (.enc 59#8) := by decide
theorem test_decode_fdec :
    decode 0b0011000011011001#16 = .ok (.fdecsec 0xD9#8) ∧ decode 0b0011000110000001#16 = .ok (.fdecmin 0x81#8) ∧
    decode 0b0011001001100011#16 = .ok (.fdechr 0x63#8) ∧ decode 0b0011001100101011#16 = .ok (.fdecwd 0x2B#8) ∧
    decode 0b0011010000110001#16 = .ok (.fdecdt 0x31#8) ∧ decode 0b0011010100110010#16 = .ok (.fdecmon 0x32#8) ∧
    decode 0b0011011010011001#16 = .ok (.fdecyr 0x99#8) := by decide
theorem test_decode_fenc :
    decode 0b0100000000011110#16 = .ok (.fencsec 30#8) ∧ decode 0b0100000110000001#16 = .ok (.fencmin 0x81#8) ∧
    decode 0b0100001000001101#16 = .ok (.fenchr 13#8) ∧ decode 0b0100001111111111#16 = .ok (.fencwd 255#8) ∧
    decode 0b0100010000011111#16 = .ok (.fencdt 31#8) ∧ decode 0b0100010100001100#16 = .ok (.fencmon 12#8) ∧
    decode 0b0100011001100011#16 = .ok (.fencyr 99#8) := by decide
theorem test_decode_ld :
    decode 0b0101000000011110#16 = .ok (.ldsec 30#8) ∧ decode 0b0101000100111011#16 = .ok (.ldmin 59#8) ∧
    decode 0b0101001000001101#16 = .ok (.ldhr 13#8) ∧ decode 0b0101001100000110#16 = .ok (.ldwd 6#8) ∧
    decode 0b0101010000011111#16 = .ok (.lddt 31#8) ∧ decode 0b0101010100001100#16 = .ok (.ldmon 12#8) ∧
    decode 0b0101011001100011#16 = .ok (.ldyr 99#8) := by decide
theorem test_decode_rd :
    decode 0b0110000000000000#16 = .ok .rdsec ∧ decode 0b0110000100000000#16 = .ok .rdmin ∧
    decode 0b0110001000000000#16 = .ok .rdhr ∧ decode 0b0110001100000000#16 = .ok .rdwd ∧
    decode 0b0110010000000000#16 = .ok .rddt ∧ decode 0b0110010100000000#16 = .ok .rdmon ∧
    decode 0b0110011000000000#16 = .ok .rdyr := by decide
theorem test_decode_wr :
    decode 0b0111000000000000#16 = .ok .wrsec ∧ decode 0b0111000100000000#16 = .ok .wrmin ∧
    decode 0b0111001000000000#16 = .ok .wrhr ∧ decode 0b0111001100000000#16 = .ok .wrwd ∧
    decode 0b0111010000000000#16 = .ok .wrdt ∧ decode 0b0111010100000000#16 = .ok .wrmon ∧
    decode 0b0111011000000000#16 = .ok .wryr := by decide
theorem test_decode_bare :
    decode 0b1000000000000000#16 = .ok .gett ∧ decode 0b1001000000000000#16 = .ok .sett ∧
    decode 0b1010000000000000#16 = .ok .init := by decide
theorem test_decode_table_word :
    decodeTableWord 16 0x501E = some (.ldsec 30#8) ∧ decodeTableWord 16 0x0000 = none ∧
    decodeTableWord 16 0x17500 = some .wrmon := by decide

/-! Commands that end in one step. Vectors V1 to V5 of spec/95_test_vectors.md. -/

theorem test_dec : resultsOf (run S0 0x10A5#16) = some [0x0069#16] ∧ resultsOf (run S0 0x10FF#16) = some [0x00A5#16] := by
  decide
theorem test_enc : resultsOf (run S0 0x203B#16) = some [0x0059#16] ∧ resultsOf (run S0 0x20FF#16) = some [0x0095#16] := by
  decide
theorem test_fdecsec : resultsOf (run S0 0x30D9#16) = some [0x003B#16] := by decide
theorem test_fdecmin : resultsOf (run S0 0x31D9#16) = some [0x008B#16] := by decide
theorem test_fdechr : resultsOf (run S0 0x3263#16) = some [0x0017#16] := by decide
theorem test_fdecwd : resultsOf (run S0 0x332B#16) = some [0x0003#16] := by decide
theorem test_fdecdt : resultsOf (run S0 0x34B0#16) = some [0x006E#16] := by decide
theorem test_fdecmon : resultsOf (run S0 0x35B0#16) = some [0x005A#16] := by decide
theorem test_fdecyr : resultsOf (run S0 0x36FF#16) = some [0x00A5#16] := by decide
theorem test_fencsec : resultsOf (run S0 0x401E#16) = some [0x00B0#16] := by decide
theorem test_fencmin : resultsOf (run S0 0x412D#16) = some [0x0045#16] := by decide
theorem test_fenchr : resultsOf (run S0 0x4228#16) = some [0x0000#16] := by decide
theorem test_fencwd : resultsOf (run S0 0x43FF#16) = some [0x00FF#16] := by decide
theorem test_fencdt : resultsOf (run S0 0x4464#16) = some [0x00A0#16] := by decide
theorem test_fencmon : resultsOf (run S0 0x451E#16) = some [0x0010#16] := by decide
theorem test_fencyr : resultsOf (run S0 0x4663#16) = some [0x0099#16] := by decide
theorem test_ldsec : resultsOf (run S0 0x503B#16) = some [0x003B#16] ∧ snapOf (run S0 0x503B#16) = some ⟨59, 0, 0, 0, 1, 1, 0⟩ ∧
    resultsOf (run S0 0x503C#16) = some [0x8000#16] := by decide
theorem test_ldmin : resultsOf (run S0 0x513B#16) = some [0x003B#16] ∧ snapOf (run S0 0x513B#16) = some ⟨0, 59, 0, 0, 1, 1, 0⟩ ∧
    resultsOf (run S0 0x513C#16) = some [0x8100#16] := by decide
theorem test_ldhr : resultsOf (run S0 0x5217#16) = some [0x0017#16] ∧ snapOf (run S0 0x5217#16) = some ⟨0, 0, 23, 0, 1, 1, 0⟩ ∧
    resultsOf (run S0 0x5218#16) = some [0x8200#16] := by decide
theorem test_ldwd : resultsOf (run S0 0x5306#16) = some [0x0006#16] ∧ snapOf (run S0 0x5306#16) = some ⟨0, 0, 0, 6, 1, 1, 0⟩ ∧
    resultsOf (run S0 0x5307#16) = some [0x8300#16] := by decide
theorem test_lddt : resultsOf (run S0 0x541F#16) = some [0x001F#16] ∧ snapOf (run S0 0x541F#16) = some ⟨0, 0, 0, 0, 31, 1, 0⟩ ∧
    resultsOf (run S0 0x5400#16) = some [0x8400#16] ∧ resultsOf (run S0 0x5420#16) = some [0x8400#16] := by decide
theorem test_ldmon : resultsOf (run S0 0x550C#16) = some [0x000C#16] ∧ snapOf (run S0 0x550C#16) = some ⟨0, 0, 0, 0, 1, 12, 0⟩ ∧
    resultsOf (run S0 0x5500#16) = some [0x8500#16] ∧ resultsOf (run S0 0x550D#16) = some [0x8500#16] := by decide
theorem test_ldyr : resultsOf (run S0 0x5663#16) = some [0x0063#16] ∧ snapOf (run S0 0x5663#16) = some ⟨0, 0, 0, 0, 1, 1, 99⟩ ∧
    resultsOf (run S0 0x5664#16) = some [0x8600#16] := by decide
theorem test_refused_load_keeps_the_snapshot : snapOf (run S0 0x5400#16) = some S0 := by decide
theorem test_illegal_word : resultsOf (run S0 0xFFFF#16) = some [0xC000#16] ∧ snapOf (run S1 0xFFFF#16) = some S1 := by decide

/-! Commands that wait: the request of the first step, and the step on the answer. Vectors V6 to V10. -/

theorem test_rdsec_asks : wireOf (run S0 0x6000#16) = some [(.read, 0x00#8, 0x00#8)] := by decide
theorem test_rdmin_asks : wireOf (run S0 0x6100#16) = some [(.read, 0x01#8, 0x00#8)] := by decide
theorem test_rdhr_asks : wireOf (run S0 0x6200#16) = some [(.read, 0x02#8, 0x00#8)] := by decide
theorem test_rdwd_asks : wireOf (run S0 0x6300#16) = some [(.read, 0x03#8, 0x00#8)] := by decide
theorem test_rddt_asks : wireOf (run S0 0x6400#16) = some [(.read, 0x04#8, 0x00#8)] := by decide
theorem test_rdmon_asks : wireOf (run S0 0x6500#16) = some [(.read, 0x05#8, 0x00#8)] := by decide
theorem test_rdyr_asks : wireOf (run S0 0x6600#16) = some [(.read, 0x06#8, 0x00#8)] := by decide
theorem test_rdsec_stores : resultsOf (answer .rd .sec S0 .success 0xD9#8) = some [0x003B#16] ∧
    snapOf (answer .rd .sec S0 .success 0xFF#8) = some ⟨85, 0, 0, 0, 1, 1, 0⟩ := by decide
theorem test_rdmin_stores : resultsOf (answer .rd .min S0 .success 0xD9#8) = some [0x008B#16] ∧
    snapOf (answer .rd .min S0 .success 0x59#8) = some ⟨0, 59, 0, 0, 1, 1, 0⟩ := by decide
theorem test_rdhr_stores : resultsOf (answer .rd .hr S0 .success 0x63#8) = some [0x0017#16] ∧
    snapOf (answer .rd .hr S0 .success 0x72#8) = some ⟨0, 0, 32, 0, 1, 1, 0⟩ := by decide
theorem test_rdwd_stores : resultsOf (answer .rd .wd S0 .success 0x2B#8) = some [0x0003#16] ∧
    snapOf (answer .rd .wd S0 .success 0xFF#8) = some ⟨0, 0, 0, 7, 1, 1, 0⟩ := by decide
theorem test_rddt_stores : resultsOf (answer .rd .dt S0 .success 0x31#8) = some [0x001F#16] ∧
    snapOf (answer .rd .dt S0 .success 0x00#8) = some ⟨0, 0, 0, 0, 0, 1, 0⟩ := by decide
theorem test_rdmon_stores : resultsOf (answer .rd .mon S0 .success 0x32#8) = some [0x000C#16] ∧
    snapOf (answer .rd .mon S0 .success 0x00#8) = some ⟨0, 0, 0, 0, 1, 0, 0⟩ := by decide
theorem test_rdyr_stores : resultsOf (answer .rd .yr S0 .success 0xA0#8) = some [0x0064#16] ∧
    snapOf (answer .rd .yr S0 .success 0x99#8) = some ⟨0, 0, 0, 0, 1, 1, 99⟩ := by decide
theorem test_rdmon_timeout : resultsOf (answer .rd .mon S0 .timeout 0xFF#8) = some [0x6500#16] ∧
    snapOf (answer .rd .mon S0 .timeout 0xFF#8) = some S0 := by decide
theorem test_wrsec : wireOf (run S1 0x7000#16) = some [(.write, 0x00#8, 0xB0#8)] ∧
    resultsOf (run ⟨80, 0, 0, 0, 1, 1, 0⟩ 0x7000#16) = some [0x8000#16] := by decide
theorem test_wrmin : wireOf (run S1 0x7100#16) = some [(.write, 0x01#8, 0x45#8)] ∧
    resultsOf (run S3 0x7100#16) = some [0x8100#16] := by decide
theorem test_wrhr : wireOf (run S1 0x7200#16) = some [(.write, 0x02#8, 0x13#8)] ∧
    resultsOf (run ⟨0, 0, 32, 0, 1, 1, 0⟩ 0x7200#16) = some [0x8200#16] := by decide
theorem test_wrwd : wireOf (run S2 0x7300#16) = some [(.write, 0x03#8, 0x06#8)] ∧
    resultsOf (run ⟨0, 0, 0, 7, 1, 1, 0⟩ 0x7300#16) = some [0x8300#16] := by decide
theorem test_wrdt : wireOf (run S2 0x7400#16) = some [(.write, 0x04#8, 0x31#8)] ∧
    resultsOf (run ⟨0, 0, 0, 0, 0, 1, 0⟩ 0x7400#16) = some [0x8400#16] := by decide
theorem test_wrmon : wireOf (run S2 0x7500#16) = some [(.write, 0x05#8, 0x12#8)] ∧
    resultsOf (run ⟨0, 0, 0, 0, 1, 13, 0⟩ 0x7500#16) = some [0x8500#16] := by decide
theorem test_wryr : wireOf (run S2 0x7600#16) = some [(.write, 0x06#8, 0x99#8)] ∧
    resultsOf (run ⟨0, 0, 0, 0, 1, 1, 100⟩ 0x7600#16) = some [0x8600#16] := by decide
theorem test_wr_answers : resultsOf (answer .wr .sec S0 .failure 0x00#8) = some [0x5000#16] ∧
    resultsOf (answer .wr .yr S0 .timeout 0x00#8) = some [0x6600#16] ∧
    resultsOf (answer .wr .hr S1 .success 0xFF#8) = some [0x0000#16] := by decide
theorem test_gett : wireOf (run S1 0x8000#16) = some [(.read, 0x00#8, 0x00#8)] ∧
    wireOf (answer .gett .hr S0 .success 0x63#8) = some [(.read, 0x03#8, 0x00#8)] ∧
    snapOf (answer .gett .hr S0 .success 0x63#8) = some ⟨0, 0, 23, 0, 1, 1, 0⟩ ∧
    resultsOf (answer .gett .yr S0 .success 0x99#8) = some [0x0000#16] := by decide
theorem test_gett_fails_at_the_weekday : resultsOf (answer .gett .wd ⟨59, 59, 23, 4, 5, 6, 7⟩ .timeout 0x00#8) = some [0x6300#16] ∧
    snapOf (answer .gett .wd ⟨59, 59, 23, 4, 5, 6, 7⟩ .timeout 0x00#8) = some ⟨59, 59, 23, 4, 5, 6, 7⟩ := by decide
theorem test_sett : wireOf (run S1 0x9000#16) = some [(.write, 0x00#8, 0xB0#8)] ∧
    wireOf (answer .sett .dt S1 .success 0x00#8) = some [(.write, 0x05#8, 0x11#8)] ∧
    resultsOf (answer .sett .hr S1 .failure 0x00#8) = some [0x5200#16] := by decide
theorem test_sett_refused : resultsOf (run ⟨80, 45, 13, 2, 10, 13, 26⟩ 0x9000#16) = some [0x8000#16] ∧
    wireOf (run ⟨30, 45, 13, 7, 10, 11, 26⟩ 0x9000#16) = some [] ∧
    resultsOf (run ⟨30, 45, 13, 7, 10, 11, 26⟩ 0x9000#16) = some [0x8300#16] := by decide
theorem test_init : wireOf (run S1 0xA000#16) = some [(.write, 0x00#8, 0x80#8)] ∧ snapOf (run S1 0xA000#16) = some S0 ∧
    resultsOf (answer .init .sec S0 .failure 0x00#8) = some [0x5000#16] := by decide

/-! The sequencer's events (R30, R290) and the constants of Config. -/

theorem test_busy_takes_the_answer_first :
    resultsOf (step (busy .wr .sec S0 [.cmd 0x1059#16, .tresp .success 0#8])) = some [0x0000#16] ∧
    ((nextOf (step (busy .wr .sec S0 [.cmd 0x1059#16, .tresp .success 0#8]))).map fun t => t.inputs) =
      some [.cmd 0x1059#16] := by decide
theorem test_idle_answer_is_discarded : resultsOf (step (idle S1 [.tresp .failure 0xFF#8])) = some [] ∧
    snapOf (step (idle S1 [.tresp .failure 0xFF#8])) = some S1 := by decide
theorem test_reset_while_busy : snapOf (step (busy .gett .dt S1 [.reset])) = some S0 ∧
    ((nextOf (step (busy .gett .dt S1 [.reset]))).map fun t => t.busy) = some false := by decide
theorem test_no_input_waits : step State.reset = .next State.reset := rfl
theorem test_request_device : (readRequest .sec).dev = Config.devAddr := rfl
theorem test_assembler :
    assemble "FDECSEC\t0xD9 ; comment".toList = .ok [0x30D9#16] ∧ assemble "SETHR 13".toList = .ok [0x520D#16, 0x7200#16] ∧
    assemble "LDSEC 256".toList = .error .operandTooLarge ∧ assemble "; nothing".toList = .ok [] := by decide

/-! Witnesses: for each obligation with hypotheses, data that meets them together; for clauses, values at the boundaries.
A witness is named after the obligation it serves. `witness_idle_state` serves every obligation whose one premise is `Idle`
(the codec commands, GettStartsAtTheSeconds, GettAgreesWithSevenReads, the three of `INIT`); `witness_inrange_bounds` serves
FieldRoundTrip and ForcedBitsAreConsistent; `witness_sett_in_range` serves SettAgreesWithSevenWrites as well;
`witness_stepRuns` serves PresentedWordRunsNext as well. -/

theorem witness_idle_state : Idle State.reset ∧ Idle (idle S1 []) ∧ Idle (idle S3 []) := by decide
theorem witness_encodeOfDecode : decode 0x56FF#16 = .ok (.ldyr 0xFF#8) := by decide
theorem witness_illegalWords :
    Idle (idle S1 [.cmd 0x0000#16]) ∧ (idle S1 [.cmd 0x0000#16]).inputs = .cmd 0x0000#16 :: [] ∧
    decode 0x0000#16 = .error .reservedOp := by decide
theorem witness_opcodeTable_row :
    ⟨"WRYR", .f, 0xFFFF#16, 0x7600#16⟩ ∈ opcodeTable ∧ 0x7600#16 &&& 0xFFFF#16 = 0x7600#16 ∧
    decode 0x7600#16 = .ok .wryr := by decide
theorem witness_codecRoundTrips :
    (99#8).toNat ≤ 99 ∧ (0x99#8).toNat / 16 ≤ 9 ∧ (0x99#8).toNat % 16 ≤ 9 := by decide
theorem witness_encAbove99 : 100 ≤ (100#8).toNat ∧ (159#8).toNat ≤ 159 ∧ 160 ≤ (160#8).toNat := by decide
theorem witness_inrange_bounds :
    (∀ f : Field, inrange f (fieldLo f) = true ∧ inrange f (fieldHi f) = true ∧ inrange f (fieldHi f + 1#8) = false) ∧
    inrange .dt 0#8 = false ∧ inrange .mon 0#8 = false := by
  refine ⟨?_, by decide, by decide⟩
  intro f
  cases f <;> decide
theorem witness_loads_bounds :
    Idle (idle S1 []) ∧ (59#8).toNat ≤ 59 ∧ ¬(60#8).toNat ≤ 59 ∧ (23#8).toNat ≤ 23 ∧ ¬(24#8).toNat ≤ 23 ∧
    (6#8).toNat ≤ 6 ∧ ¬(7#8).toNat ≤ 6 ∧ (1 ≤ (1#8).toNat ∧ (31#8).toNat ≤ 31) ∧ ¬(1 ≤ (0#8).toNat ∧ (0#8).toNat ≤ 31) ∧
    (1 ≤ (12#8).toNat ∧ (12#8).toNat ≤ 12) ∧ ¬(1 ≤ (13#8).toNat ∧ (13#8).toNat ≤ 12) ∧ (99#8).toNat ≤ 99 ∧
    ¬(100#8).toNat ≤ 99 := by decide
theorem witness_reads : Idle (idle S1 []) ∧ exec .rdhr (idle S1 []) = .next (issueRead .rd .hr (idle S1 [])) :=
  ⟨rfl, rfl⟩
theorem witness_writes_in_range :
    Idle (idle S2 []) ∧ (idle S2 []).snap.sec.toNat ≤ 59 ∧ (idle S2 []).snap.hr.toNat ≤ 23 ∧
    (idle S2 []).snap.wd.toNat ≤ 6 ∧ (idle S2 []).snap.dt.toNat ≤ 31 ∧ (idle S2 []).snap.mon.toNat ≤ 12 ∧
    (idle S2 []).snap.yr.toNat ≤ 99 := by decide
theorem witness_writes_out_of_range :
    Idle (idle S3 []) ∧ ¬(idle S3 []).snap.sec.toNat ≤ 59 ∧ ¬(idle S3 []).snap.min.toNat ≤ 59 ∧
    ¬(idle S3 []).snap.hr.toNat ≤ 23 ∧ ¬(idle S3 []).snap.wd.toNat ≤ 6 ∧ ¬(idle S3 []).snap.dt.toNat ≤ 31 ∧
    ¬(idle S3 []).snap.mon.toNat ≤ 12 ∧ ¬(idle S3 []).snap.yr.toNat ≤ 99 := by decide
theorem witness_writeThenRead :
    Idle (idle S0 [.cmd (encode (ldOf .hr 13#8)), .cmd (encode (wrOf .hr)), .tresp .success 0#8]) ∧
    inrange .hr 13#8 = true := by decide
theorem witness_gett_answers :
    Idle (idle S0 (.cmd 0x8000#16 :: (answers [0xD9#8, 0x59#8, 0x63#8, 0x2B#8, 0x31#8, 0x32#8, 0x99#8] ++ []))) := by decide
theorem witness_gett_failure :
    Idle (idle S0 (.cmd 0x8000#16 :: (answers [0xD9#8, 0x59#8, 0x63#8] ++ .tresp .timeout 0#8 :: []))) ∧
    [0xD9#8, 0x59#8, 0x63#8].length ≤ 6 ∧ TransportOutcome.timeout ≠ .success := by decide
theorem witness_sett_in_range : Idle (idle S2 []) ∧ AllInRange (idle S2 []).snap :=
  ⟨rfl, fun f => by cases f <;> decide⟩
theorem witness_sett_out_of_range :
    inrange .wd ((idle ⟨30, 45, 13, 7, 10, 13, 26⟩ []).snap.get .wd) = false ∧
    ∀ g, fieldIndex g < fieldIndex .wd → inrange g ((idle ⟨30, 45, 13, 7, 10, 13, 26⟩ []).snap.get g) = true := by
  refine ⟨by decide, ?_⟩
  intro g
  cases g <;> decide
theorem witness_sett_answers :
    Idle (idle S1 (.cmd 0x9000#16 :: (answers [0, 0, 0, 0, 0, 0, 0] ++ []))) ∧ AllInRange S1 ∧
    ([0, 0, 0, 0, 0, 0, 0] : List Byte).length = 7 :=
  ⟨rfl, fun f => by cases f <;> decide, rfl⟩
theorem witness_sett_failure :
    Idle (idle S1 (.cmd 0x9000#16 :: (answers [0, 0] ++ .tresp .failure 0#8 :: []))) ∧ AllInRange S1 ∧
    ([0, 0] : List Byte).length ≤ 6 ∧ TransportOutcome.failure ≠ .success :=
  ⟨rfl, fun f => by cases f <;> decide, by decide, by decide⟩
theorem witness_sequencerAdvances :
    ∃ t, (busy .gett .dt S1 [.tresp .success 0#8]).busy = true ∧
      step (busy .gett .dt S1 [.tresp .success 0#8]) = .next t ∧ t.busy = true := ⟨_, rfl, rfl, rfl⟩
theorem witness_initThenGett :
    Idle (idle S1 (.cmd 0xA000#16 :: .tresp .success 0#8 :: .cmd 0x8000#16 ::
      (answers [0x80#8, 0, 0, 0xF8#8, 1, 1, 0] ++ []))) ∧ 0xF8#8 &&& 0x07#8 = 0#8 := by decide
theorem witness_failedResponse :
    (busy .sett .mon S1 [.tresp .timeout 0#8]).busy = true ∧ TransportOutcome.timeout ≠ .success ∧
    (busy .sett .mon S1 [.tresp .timeout 0#8]).inputs = .tresp .timeout 0#8 :: [] := by decide
theorem witness_successfulResponse :
    ∀ op f, (busy op f S1 [.tresp .success 0#8]).busy = true ∧ (busy op f S1 [.tresp .success 0#8]).op = op ∧
      (busy op f S1 [.tresp .success 0#8]).idx = f ∧
      (busy op f S1 [.tresp .success 0#8]).inputs = .tresp .success 0#8 :: [] := fun _ _ => ⟨rfl, rfl, rfl, rfl⟩
theorem witness_next_index : fieldIndex .min = fieldIndex .sec + 1 ∧ fieldIndex .yr = fieldIndex .mon + 1 := by decide
theorem witness_idleResponse :
    Idle (idle S1 [.tresp .success 0#8]) ∧ (idle S1 [.tresp .success 0#8]).inputs = .tresp .success 0#8 :: [] := by decide
theorem witness_busyCommand :
    ∃ t, (busy .rd .hr S1 [.cmd 0x1059#16, .tresp .success 0x13#8]).busy = true ∧
      step { busy .rd .hr S1 [.cmd 0x1059#16, .tresp .success 0x13#8] with inputs := [.tresp .success 0x13#8] } = .next t :=
  ⟨_, rfl, rfl⟩
theorem witness_oneStep : ∃ t, step (idle S1 [.cmd 0x6000#16]) = .next t := ⟨_, rfl⟩
theorem witness_stepRuns :
    Idle (idle S1 [.cmd 0x6000#16]) ∧ (idle S1 [.cmd 0x6000#16]).inputs = .cmd 0x6000#16 :: [] ∧
    decode 0x6000#16 = .ok .rdsec := by decide
theorem witness_resetInput : (busy .gett .dt S1 [.reset, .tresp .success 0#8]).inputs = .reset :: [.tresp .success 0#8] := rfl

/-- A block in a `SETT` after its second write: it meets the three invariants. -/
def inSett : State :=
  { busy .sett .min S1 [.tresp .success 0#8] with treqOut := [writeAt 0x00#8 0xB0#8, writeAt 0x01#8 0x45#8] }

theorem witness_wireSafe : ∃ t, WireSafe inSett ∧ step inSett = .next t := by
  refine ⟨_, ⟨?_, fun _ _ f => by cases f <;> decide⟩, rfl⟩
  intro r hr
  rcases List.mem_cons.1 hr with rfl | hr
  · exact ⟨rfl, .sec, rfl, .inr ⟨rfl, 30#8, by decide, by decide⟩⟩
  · rcases List.mem_cons.1 hr with rfl | hr
    · exact ⟨rfl, .min, rfl, .inr ⟨rfl, 45#8, by decide, by decide⟩⟩
    · cases hr
theorem witness_outstanding : ∃ t, Outstanding inSett ∧ step inSett = .next t := by
  have h : fenc .min 45#8 = 0x45#8 := by decide
  refine ⟨_, fun _ => ⟨?_, fun h => by cases h⟩, rfl⟩
  show some (writeAt 0x01#8 0x45#8) = some (writeRequest .min (fenc .min 45#8))
  rw [h]
  rfl
theorem witness_snapBounded : ∃ t, SnapBounded inSett ∧ step inSett = .next t :=
  ⟨_, fun f => by cases f <;> decide, rfl⟩
theorem witness_controlBits :
    writeAt 0x00#8 0xB0#8 ∈ inSett.treqOut ∧ (writeAt 0x00#8 0xB0#8).kind = .write :=
  ⟨List.mem_cons_self, rfl⟩
theorem witness_sevenAnswers :
    inSett.busy = true ∧ (List.replicate 7 (TransportOutcome.success, 0#8)).length = 7 := by decide
theorem witness_writesAtOnce :
    ∃ t, exec (.ldhr 13#8) State.reset = .next t ∧ t.snap.get .hr ≠ State.reset.snap.get .hr := ⟨_, rfl, by decide⟩
theorem witness_responseWrites :
    ∃ t, step (busy .rd .hr S0 [.tresp .success 0x13#8]) = .next t ∧ t.snap.get .hr ≠ S0.get .hr := ⟨_, rfl, by decide⟩
theorem witness_ignoredData :
    TransportOutcome.failure ≠ .success ∧ (busy .wr .sec S0 []).op = .wr ∧ (busy .sett .sec S0 []).op = .sett ∧
    (busy .init .sec S0 []).op = .init ∧ (idle S0 []).busy = false := by decide
theorem witness_maskedBits :
    0xD9#8 &&& rmask (busy .rd .sec S0 []).idx = 0x59#8 &&& rmask (busy .rd .sec S0 []).idx := by decide
theorem witness_operandFits : (255 : Nat) ≤ 255 := by decide

end Sys2Proof.Tests
end

namespace Sys2Proof.Machine

/-! The shapes of one step. `Reaction` names them, over the state whose inputs have moved on; the three invariants and the
count of the outputs are each a case analysis over it. -/

/-- What a busy block does on SUCCESS with data `d` (R34): the four shapes of the five rows. -/
inductive SuccessStep (s : State) (d : Byte) : State → Prop where
  | endsRead (v : Byte) (ho : s.op = .rd ∨ s.op = .gett) : SuccessStep s d (finish v (storeRead d s))
  | endsWrite : SuccessStep s d (finish 0#8 s)
  | nextRead (f : Field) (ho : s.op = .gett) (hf : nextField s.idx = some f) :
      SuccessStep s d (issueRead .gett f (storeRead d s))
  | nextWrite (f : Field) (ho : s.op = .sett) (hf : nextField s.idx = some f) :
      SuccessStep s d (issueFieldWrite .sett f s)

theorem successStep_onSuccess (d : Byte) (s : State) : SuccessStep s d (onSuccess d s) := by
  rcases onSuccess_cases d s with ⟨ho, e⟩ | ⟨_, e⟩ | ⟨ho, _, e⟩ | ⟨ho, f, hf, e⟩ | ⟨_, _, e⟩ | ⟨ho, f, hf, e⟩ <;> rw [e]
  · exact .endsRead _ (.inl ho)
  · exact .endsWrite
  · exact .endsRead _ (.inr ho)
  · exact .nextRead f ho hf
  · exact .endsWrite
  · exact .nextWrite f ho hf

/-- What the block does on the event of one step (R30): `s` is the state with the event taken from the inputs. -/
inductive Reaction (s : State) : State → Prop where
  | unchanged : Reaction s s
  | reset : Reaction s (hardwareReset s)
  | exception (e : BlockException) : Reaction s (raise e s)
  | accepted {i : Instr} {t : State} (h : FirstStep s i t) : Reaction s t
  | answered {d : Byte} {t : State} (hb : s.busy = true) (h : SuccessStep s d t) : Reaction s t

theorem onResponse_reaction (o : TransportOutcome) (d : Byte) (s : State) : Reaction s (onResponse o d s) := by
  rcases onResponse_cases o d s with ⟨_, e⟩ | ⟨_, c, _, e⟩ | ⟨hb, _, e⟩ <;> rw [e]
  · exact .unchanged
  · exact .exception _
  · exact .answered hb (successStep_onSuccess d s)

/-- Every step is a reaction, from the state with the inputs that are left. -/
theorem step_reaction {s t : State} (h : step s = .next t) : ∃ left, Reaction { s with inputs := left } t := by
  rcases step_cases h with ⟨_, rfl⟩ | ⟨_, left, _, _, _, _, hx⟩ | ⟨_, left, _, _, _, _, rfl⟩ | ⟨o, d, left, _, rfl⟩ |
    ⟨left, _, rfl⟩
  · exact ⟨t.inputs, .unchanged⟩
  · exact ⟨left, .accepted (exec_cases hx)⟩
  · exact ⟨left, .exception _⟩
  · exact ⟨left, onResponse_reaction o d _⟩
  · exact ⟨left, .reset⟩

/-- An invariant that does not read the inputs is kept by every step when every reaction keeps it. -/
theorem step_keeps {P : State → Prop} (hinputs : ∀ s left, P s → P { s with inputs := left })
    (hkeep : ∀ s t, P s → Reaction s t → P t) {s t : State} (hs : P s) (h : step s = .next t) : P t := by
  obtain ⟨left, hr⟩ := step_reaction h
  exact hkeep _ t (hinputs s left hs) hr

/-! The requests the block emits are legal (R22, R49). -/

theorem legalRequest_read (f : Field) : LegalRequest (readRequest f) := ⟨rfl, f, rfl, .inl ⟨rfl, rfl⟩⟩

theorem legalRequest_write {f : Field} {v : Byte} (h : inrange f v = true) : LegalRequest (writeRequest f (fenc f v)) :=
  ⟨rfl, f, rfl, .inr ⟨rfl, v, h, rfl⟩⟩

/-- The byte `INIT` writes is the encoding of the reset seconds, so its request is legal (R240). -/
theorem legalRequest_init : LegalRequest (writeRequest .sec 0x80#8) :=
  have h : fenc .sec (rst .sec) = 0x80#8 := by decide
  h ▸ legalRequest_write (inrange_rst .sec)

theorem WireSafe.of_idle {s t : State} (hs : WireSafe s) (hq : t.treqOut = s.treqOut) (hb : t.busy = false) :
    WireSafe t :=
  ⟨hq ▸ hs.1, fun h => by simp [hb] at h⟩

theorem WireSafe.of_request {s t : State} {r : Request} (hs : WireSafe s) (hq : t.treqOut = s.treqOut ++ [r])
    (hr : LegalRequest r) (hsett : t.op = .sett → AllInRange t.snap) : WireSafe t := by
  refine ⟨fun q hm => ?_, fun _ => hsett⟩
  rw [hq, List.mem_append, List.mem_singleton] at hm
  rcases hm with hm | rfl
  · exact hs.1 q hm
  · exact hr

theorem FirstStep.wireSafe {s t : State} {i : Instr} (h : FirstStep s i t) (hs : WireSafe s) : WireSafe t := by
  cases h with
  | value | load | refused => exact hs.of_idle rfl rfl
  | read f => exact hs.of_request rfl (legalRequest_read f) (by simp)
  | write f hf => exact hs.of_request rfl (legalRequest_write hf) (by simp)
  | gett => exact hs.of_request rfl (legalRequest_read .sec) (by simp)
  | sett hall => exact hs.of_request rfl (legalRequest_write (hall .sec)) fun _ => hall
  | init => exact hs.of_request rfl legalRequest_init (by simp)

/-- A `SETT` goes on with a legal write, since the snapshot it checked has not changed (R226). -/
theorem SuccessStep.wireSafe {s t : State} {d : Byte} (h : SuccessStep s d t) (hb : s.busy = true) (hs : WireSafe s) :
    WireSafe t := by
  cases h with
  | endsRead | endsWrite => exact hs.of_idle rfl rfl
  | nextRead f => exact hs.of_request rfl (legalRequest_read f) (by simp)
  | nextWrite f ho =>
    have hall : AllInRange s.snap := hs.2 hb ho
    exact hs.of_request rfl (legalRequest_write (hall f)) fun _ => hall

theorem Reaction.wireSafe {s t : State} (hs : WireSafe s) (h : Reaction s t) : WireSafe t := by
  cases h with
  | unchanged => exact hs
  | reset | exception => exact hs.of_idle rfl rfl
  | accepted h => exact h.wireSafe hs
  | answered hb h => exact h.wireSafe hb hs

/-- Settles O41: each reaction emits nothing or one legal request. -/
theorem wireSafeIsKept : Obligations.WireSafeIsKept := by
  intro s t hs h
  exact step_keeps (fun _ _ hs => hs) (fun _ _ => Reaction.wireSafe) hs h

/-! The outstanding request (R29, R32): an idle block has none, and each issue leaves its own request last. -/

theorem Outstanding.of_idle {t : State} (hb : t.busy = false) : Outstanding t := fun h => by simp [hb] at h

theorem Outstanding.of_request {t : State} {l : List Request} (hq : t.treqOut = l ++ [outstandingRequest t])
    (hinit : t.op ≠ .init) : Outstanding t :=
  fun _ => ⟨by simp [hq], fun h => absurd h hinit⟩

theorem outstanding_issueInit (s : State) :
    Outstanding (issueWrite .init .sec 0x80#8 { s with snap := resetSnapshot }) :=
  fun _ => ⟨by simp [outstandingRequest], fun _ => ⟨rfl, rfl⟩⟩

theorem FirstStep.outstanding {s t : State} {i : Instr} (h : FirstStep s i t) : Outstanding t := by
  cases h with
  | value | load | refused => exact .of_idle rfl
  | read | write | gett | sett => exact .of_request rfl (by simp)
  | init => exact outstanding_issueInit s

theorem SuccessStep.outstanding {s t : State} {d : Byte} (h : SuccessStep s d t) : Outstanding t := by
  cases h with
  | endsRead | endsWrite => exact .of_idle rfl
  | nextRead | nextWrite => exact .of_request rfl (by simp)

theorem Reaction.outstanding {s t : State} (hs : Outstanding s) (h : Reaction s t) : Outstanding t := by
  cases h with
  | unchanged => exact hs
  | reset | exception => exact .of_idle rfl
  | accepted h => exact h.outstanding
  | answered _ h => exact h.outstanding

/-- Settles O43: each reaction keeps the state, leaves the block idle, or puts the outstanding request last. -/
theorem outstandingIsKept : Obligations.OutstandingIsKept := by
  intro s t hs h
  exact step_keeps (fun _ _ hs => hs) (fun _ _ => Reaction.outstanding) hs h

/-! The bounds of the snapshot (R129): what a load or a read stores is within them. -/

theorem fieldHi_le_largestRead (f : Field) : fieldHi f ≤ largestRead f := by cases f <;> decide

theorem le_largestRead_of_inrange {f : Field} {v : Byte} (h : inrange f v = true) : v ≤ largestRead f := by
  have hHi := fieldHi_le_largestRead f
  rw [inrange_iff] at h
  rw [BitVec.le_def] at hHi ⊢
  omega

/-- The largest value of `fdec`, over all 256 bytes (R129). -/
theorem fdec_le_largestRead (f : Field) (b : Byte) : fdec f b ≤ largestRead f := by
  cases f <;> revert b <;> decide

theorem SnapBounded.of_snap_eq {s t : State} (hs : SnapBounded s) (h : t.snap = s.snap) : SnapBounded t :=
  fun f => h ▸ hs f

theorem SnapBounded.of_set {s t : State} {f : Field} {v : Byte} (hs : SnapBounded s) (hv : v ≤ largestRead f)
    (h : t.snap = s.snap.set f v) : SnapBounded t := by
  intro g
  rw [h, Snapshot.get_set]
  split
  case isTrue hg => exact hg ▸ hv
  case isFalse => exact hs g

theorem SnapBounded.of_reset {t : State} (h : t.snap = resetSnapshot) : SnapBounded t := by
  intro f
  rw [h, get_resetSnapshot]
  exact le_largestRead_of_inrange (inrange_rst f)

theorem FirstStep.snapBounded {s t : State} {i : Instr} (h : FirstStep s i t) (hs : SnapBounded s) : SnapBounded t := by
  cases h with
  | value | refused | read | write | gett | sett => exact hs.of_snap_eq rfl
  | load f v hv => exact hs.of_set (le_largestRead_of_inrange hv) rfl
  | init => exact .of_reset rfl

theorem SuccessStep.snapBounded {s t : State} {d : Byte} (h : SuccessStep s d t) (hs : SnapBounded s) :
    SnapBounded t := by
  cases h with
  | endsRead | nextRead => exact hs.of_set (fdec_le_largestRead s.idx d) rfl
  | endsWrite | nextWrite => exact hs.of_snap_eq rfl

theorem Reaction.snapBounded {s t : State} (hs : SnapBounded s) (h : Reaction s t) : SnapBounded t := by
  cases h with
  | unchanged => exact hs
  | reset => exact .of_reset rfl
  | exception => exact hs.of_snap_eq rfl
  | accepted h => exact h.snapBounded hs
  | answered _ h => exact h.snapBounded hs

/-- Settles O45: each reaction keeps the snapshot, resets it, or sets one register within its bound. -/
theorem snapBoundedIsKept : Obligations.SnapBoundedIsKept := by
  intro s t hs h
  exact step_keeps (fun _ _ hs => hs) (fun _ _ => Reaction.snapBounded) hs h

/-! Responses while busy (R33, R34, R221). -/

theorem onResponse_success {s : State} (d : Byte) (hb : s.busy = true) : onResponse .success d s = onSuccess d s := by
  simp [onResponse, hb, causeOf]

theorem SuccessStep.inputs {s t : State} {d : Byte} (h : SuccessStep s d t) : t.inputs = s.inputs := by
  cases h with
  | endsRead | endsWrite | nextRead | nextWrite => rfl

theorem inputs_onResponse (o : TransportOutcome) (d : Byte) (s : State) : (onResponse o d s).inputs = s.inputs := by
  rcases onResponse_cases o d s with ⟨_, e⟩ | ⟨_, _, _, e⟩ | ⟨_, _, e⟩ <;> rw [e]
  · rfl
  · exact (successStep_onSuccess d s).inputs

/-- After SUCCESS the command has ended, or it is a composite at the next index (R34, R221). -/
theorem SuccessStep.ends_or_advances {s t : State} {d : Byte} (h : SuccessStep s d t) :
    t.busy = false ∨ (t.op = s.op ∧ (s.op = .gett ∨ s.op = .sett) ∧ fieldIndex t.idx = fieldIndex s.idx + 1) := by
  cases h with
  | endsRead | endsWrite => exact .inl rfl
  | nextRead f ho hf => exact .inr ⟨ho.symm, .inl ho, nextField_index hf⟩
  | nextWrite f ho hf => exact .inr ⟨ho.symm, .inr ho, nextField_index hf⟩

theorem onResponse_ends_or_advances {s : State} (o : TransportOutcome) (d : Byte) (hb : s.busy = true) :
    (onResponse o d s).busy = false ∨
    ((onResponse o d s).op = s.op ∧ (s.op = .gett ∨ s.op = .sett) ∧
      fieldIndex (onResponse o d s).idx = fieldIndex s.idx + 1) := by
  rcases onResponse_cases o d s with ⟨hi, _⟩ | ⟨_, _, _, e⟩ | ⟨_, _, e⟩
  · simp [hb] at hi
  · exact .inl (e ▸ rfl)
  · exact e ▸ (successStep_onSuccess d s).ends_or_advances

/-- Settles O27: a busy block takes no command, so a step that leaves it busy is a wait or a response that goes on. -/
theorem sequencerAdvancesByOne : Obligations.SequencerAdvancesByOne := by
  intro s t hb h ht
  rcases step_cases h with ⟨_, hw⟩ | ⟨_, _, _, hi, _⟩ | ⟨_, _, _, hi, _⟩ | ⟨o, d, left, _, rfl⟩ | ⟨_, _, rfl⟩
  · exact .inl hw
  · simp [hb] at hi
  · simp [hb] at hi
  · rcases onResponse_ends_or_advances (s := { s with inputs := left }) o d hb with he | ha
    · simp [he] at ht
    · exact .inr ha
  · simp at ht

theorem exceptionWord_transportFailure (f : Field) (c : Cause) :
    exceptionWord (.transportFailure f c) = failureWord (causeOutcome c) (fieldIndex f) := by
  cases c
  · exact failureWord_eq f
  · exact timeoutWord_eq f

theorem causeOutcome_of_causeOf {o : TransportOutcome} {c : Cause} (h : causeOf o = some c) : causeOutcome c = o := by
  cases o <;> cases h <;> rfl

/-- Settles O31: of the three answers to a response only `raise` is left. -/
theorem failedResponseEndsTheCommand : Obligations.FailedResponseEndsTheCommand := by
  intro s o d rest hb ho hin
  rw [step_tresp hin]
  rcases onResponse_cases o d { s with inputs := rest } with ⟨hi, _⟩ | ⟨_, c, hc, e⟩ | ⟨_, hs, _⟩
  · simp [hb] at hi
  · refine ⟨_, rfl, ?_⟩
    rw [e, ← causeOutcome_of_causeOf hc, ← exceptionWord_transportFailure]
    exact ⟨rfl, rfl, rfl, rfl, rfl⟩
  · exact absurd hs ho

theorem step_success {s : State} {d : Byte} {rest : List Event} (hb : s.busy = true)
    (h : s.inputs = .tresp .success d :: rest) : step s = .next (onSuccess d { s with inputs := rest }) := by
  rw [step_tresp h]
  exact congrArg _ (onResponse_success (s := { s with inputs := rest }) d hb)

theorem nextField_of_index {f g : Field} (h : fieldIndex g = fieldIndex f + 1) : nextField f = some g := by
  rcases nextField_cases f with ⟨_, rfl⟩ | ⟨g', hg', hi⟩
  · have hle := fieldIndex_le g
    rw [h] at hle
    exact absurd hle (by decide)
  · rw [hg', fieldIndex_inj (hi.trans h.symm)]

theorem endsWith_finish (v : Byte) (s : State) :
    EndsWith (.next (finish v s)) s s.snap (v.setWidth 16) s.inputs :=
  ⟨_, rfl, rfl, rfl, rfl, rfl, by rw [resOut_finish, okWord_eq]⟩

/-! The rows of R34, one lemma for each, from the state with the response taken from the inputs. -/

section
variable {s : State} (d : Byte)

theorem onSuccess_rd_endsWith (ho : s.op = .rd) :
    EndsWith (.next (onSuccess d s)) s (s.snap.set s.idx (fdec s.idx d)) ((fdec s.idx d).setWidth 16) s.inputs := by
  simp only [onSuccess, ho, respondRd, storeRead, snap_setField, Snapshot.get_set_same]
  exact endsWith_finish (fdec s.idx d) (storeRead d s)

theorem onSuccess_wr_or_init_endsWith (ho : s.op = .wr ∨ s.op = .init) :
    EndsWith (.next (onSuccess d s)) s s.snap 0x0000#16 s.inputs := by
  have h : onSuccess d s = finish 0#8 s := by
    rcases ho with ho | ho <;> simp only [onSuccess, ho, respondWr, respondInit]
  exact h ▸ endsWith_finish 0#8 s

theorem onSuccess_gett_yr_endsWith (ho : s.op = .gett) (hy : s.idx = .yr) :
    EndsWith (.next (onSuccess d s)) s (s.snap.set .yr (fdec .yr d)) 0x0000#16 s.inputs := by
  simp only [onSuccess, ho, respondGett, storeRead, hy, nextField_yr]
  exact endsWith_finish 0#8 (setField .yr (fdec .yr d) s)

theorem onSuccess_gett_next_waitsWith (ho : s.op = .gett) {g : Field} (hg : fieldIndex g = fieldIndex s.idx + 1) :
    WaitsWith (.next (onSuccess d s)) s (s.snap.set s.idx (fdec s.idx d)) .gett g (readAt (addr g)) s.inputs := by
  simp only [onSuccess, ho, respondGett, nextField_of_index hg]
  exact ⟨_, rfl, rfl, rfl, rfl, rfl, rfl, rfl, rfl⟩

theorem onSuccess_sett_yr_endsWith (ho : s.op = .sett) (hy : s.idx = .yr) :
    EndsWith (.next (onSuccess d s)) s s.snap 0x0000#16 s.inputs := by
  simp only [onSuccess, ho, respondSett, hy, nextField_yr]
  exact endsWith_finish 0#8 s

theorem onSuccess_sett_next_waitsWith (ho : s.op = .sett) {g : Field} (hg : fieldIndex g = fieldIndex s.idx + 1) :
    WaitsWith (.next (onSuccess d s)) s s.snap .sett g (writeAt (addr g) (fenc g (s.snap.get g))) s.inputs := by
  simp only [onSuccess, ho, respondSett, nextField_of_index hg]
  exact ⟨_, rfl, rfl, rfl, rfl, rfl, rfl, rfl, rfl⟩

end

/-- Settles O32: row by row of the table. -/
theorem successfulResponseByKind : Obligations.SuccessfulResponseByKind := by
  intro s d rest hb hin
  rw [step_success hb hin]
  exact ⟨onSuccess_rd_endsWith (s := { s with inputs := rest }) d,
    fun ho => onSuccess_wr_or_init_endsWith (s := { s with inputs := rest }) d (.inl ho),
    fun ho => onSuccess_wr_or_init_endsWith (s := { s with inputs := rest }) d (.inr ho),
    onSuccess_gett_yr_endsWith (s := { s with inputs := rest }) d,
    fun ho _ => onSuccess_gett_next_waitsWith (s := { s with inputs := rest }) d ho,
    onSuccess_sett_yr_endsWith (s := { s with inputs := rest }) d,
    fun ho _ => onSuccess_sett_next_waitsWith (s := { s with inputs := rest }) d ho⟩

/-! A response does not look at the inputs behind it (R30). -/

theorem onSuccess_withInputs (d : Byte) (s : State) (l : List Event) :
    onSuccess d { s with inputs := l } = { onSuccess d s with inputs := l } := by
  cases ho : s.op with
  | rd | wr | init => simp only [onSuccess, ho]; rfl
  | gett => cases hn : nextField s.idx <;> simp only [onSuccess, ho, respondGett, hn] <;> rfl
  | sett => cases hn : nextField s.idx <;> simp only [onSuccess, ho, respondSett, hn] <;> rfl

theorem onResponse_withInputs (o : TransportOutcome) (d : Byte) (s : State) (l : List Event) :
    onResponse o d { s with inputs := l } = { onResponse o d s with inputs := l } := by
  cases hb : s.busy
  · simp [onResponse, hb]
  · cases hc : causeOf o with
    | none =>
      simp only [onResponse, hb, hc, if_true]
      exact onSuccess_withInputs d s l
    | some c =>
      simp only [onResponse, hb, hc, if_true]
      rfl

theorem step_waits {s : State} (h : takeEvent s.busy s.inputs = none) : step s = .next s := by
  simp [step, takeStep, h]

theorem step_takes {s : State} {e : Event} {left : List Event} (h : takeEvent s.busy s.inputs = some (e, left)) :
    step s = onEvent e { s with inputs := left } := by
  simp [step, takeStep, h]

/-- A busy block takes its event from behind the word, and the word stays. -/
theorem takeEvent_behind {s : State} {w : CmdWord} {rest : List Event} (hb : s.busy = true)
    (hin : s.inputs = .cmd w :: rest) :
    takeEvent s.busy s.inputs = (takeEvent s.busy rest).map fun p => (p.1, .cmd w :: p.2) := by
  rw [hb, hin]
  cases h : takeEvent true rest <;> simp [takeEvent, h]

/-- Settles O34: the event taken from behind the word is a response or a reset, and neither looks at the inputs left. -/
theorem busyCommandStaysPresented : Obligations.BusyCommandStaysPresented := by
  intro s t w rest hb hin h
  have hbehind := takeEvent_behind hb hin
  rcases step_cases h with ⟨he, rfl⟩ | ⟨_, _, _, hi, _⟩ | ⟨_, _, _, hi, _⟩ | ⟨o, d, left, he, rfl⟩ | ⟨left, he, rfl⟩
  · rw [he] at hbehind
    rw [step_waits hbehind, ← hin]
  · simp [hb] at hi
  · simp [hb] at hi
  · rw [he] at hbehind
    rw [step_takes hbehind, inputs_onResponse]
    exact congrArg Host.Outcome.next (onResponse_withInputs o d { s with inputs := left } (.cmd w :: left))
  · rw [he] at hbehind
    rw [step_takes hbehind]
    rfl

/-! The outputs of one step (R30, R35). -/

/-- From `s` to `t` nothing was emitted, or one request and the block waits, or one result word and it is idle. -/
def EmitsAtMostOne (s t : State) : Prop :=
  (t.treqOut = s.treqOut ∧ t.resOut = s.resOut ∧ (t.busy = s.busy ∨ t.busy = false)) ∨
  (∃ r, t.treqOut = s.treqOut ++ [r] ∧ t.resOut = s.resOut ∧ t.busy = true) ∨
  (∃ w, t.treqOut = s.treqOut ∧ t.resOut = s.resOut ++ [w] ∧ t.busy = false)

theorem EmitsAtMostOne.request {s t : State} {r : Request} (hq : t.treqOut = s.treqOut ++ [r]) (hr : t.resOut = s.resOut)
    (hb : t.busy = true) : EmitsAtMostOne s t := .inr (.inl ⟨r, hq, hr, hb⟩)

theorem EmitsAtMostOne.result {s t : State} {w : ResultWord} (hq : t.treqOut = s.treqOut)
    (hr : t.resOut = s.resOut ++ [w]) (hb : t.busy = false) : EmitsAtMostOne s t := .inr (.inr ⟨w, hq, hr, hb⟩)

theorem FirstStep.emitsAtMostOne {s t : State} {i : Instr} (h : FirstStep s i t) : EmitsAtMostOne s t := by
  cases h with
  | value | load | refused => exact .result rfl rfl rfl
  | read | write | gett | sett | init => exact .request rfl rfl rfl

theorem SuccessStep.emitsAtMostOne {s t : State} {d : Byte} (h : SuccessStep s d t) : EmitsAtMostOne s t := by
  cases h with
  | endsRead | endsWrite => exact .result rfl rfl rfl
  | nextRead | nextWrite => exact .request rfl rfl rfl

/-- Settles O36: by the shapes of a step. -/
theorem oneStepEmitsAtMostOneOfEach : Obligations.OneStepEmitsAtMostOneOfEach := by
  intro s t h
  obtain ⟨left, hr⟩ := step_reaction h
  cases hr with
  | unchanged => exact .inl ⟨rfl, rfl, .inl rfl⟩
  | reset => exact .inl ⟨rfl, rfl, .inr rfl⟩
  | exception e => exact EmitsAtMostOne.result (s := s) rfl rfl rfl
  | accepted h => exact h.emitsAtMostOne
  | answered _ h => exact h.emitsAtMostOne

/-! Every answer ends the command or goes one index further, so at most seven are needed (R221). -/

theorem steps_succ_of_step {s t : State} (k : Nat) (h : step s = .next t) : steps (k + 1) s = steps k t := by
  simp [steps, h]

/-- The step of a busy block on an answer: what is left of the inputs, and how far the sequencer got. -/
theorem step_busy_answer {s : State} {o : TransportOutcome} {d : Byte} {rest : List Event} (hb : s.busy = true)
    (hin : s.inputs = .tresp o d :: rest) :
    ∃ t, step s = .next t ∧ t.inputs = rest ∧ (t.busy = true → fieldIndex t.idx = fieldIndex s.idx + 1) := by
  refine ⟨_, step_tresp hin, inputs_onResponse o d _, fun hb' => ?_⟩
  rcases onResponse_ends_or_advances (s := { s with inputs := rest }) o d hb with he | ⟨_, _, ha⟩
  · simp [he] at hb'
  · exact ha

/-- From index i, the answers from i to 6 are enough; by induction on the answers. -/
theorem busy_ends_within (rs : List (TransportOutcome × Byte)) (rest : List Event) (s : State) (hb : s.busy = true)
    (hlen : 7 ≤ rs.length + fieldIndex s.idx) (hin : s.inputs = (rs.map fun p => Event.tresp p.1 p.2) ++ rest) :
    ∃ k t, k ≤ rs.length ∧ steps k s = .next t ∧ t.busy = false := by
  induction rs generalizing s with
  | nil =>
    have := fieldIndex_le s.idx
    simp only [List.length_nil] at hlen
    omega
  | cons p rs ih =>
    obtain ⟨u, hstep, hin', hadv⟩ := step_busy_answer hb hin
    rw [List.length_cons] at hlen ⊢
    cases hb' : u.busy with
    | false => exact ⟨1, u, by omega, steps_succ_of_step 0 hstep, hb'⟩
    | true =>
      have hidx := hadv hb'
      obtain ⟨k, t, hk, ht, hidle⟩ := ih u hb' (by omega) hin'
      exact ⟨k + 1, t, by omega, (steps_succ_of_step k hstep).trans ht, hidle⟩

/-- Settles O48: seven answers are enough from any index. -/
theorem busyEndsWithinSevenAnswers : Obligations.BusyEndsWithinSevenAnswers := by
  intro s rs rest hb hlen hin
  obtain ⟨k, t, hk, ht⟩ := busy_ends_within rs rest s hb (by omega) hin
  exact ⟨k, t, hlen ▸ hk, ht⟩

/-! Who writes the snapshot (R23). -/

/-- Settles O49: of the eight shapes of an accepted command only a load and `INIT` touch the snapshot. -/
theorem onlyInitAndLoadsWriteAtOnce : Obligations.OnlyInitAndLoadsWriteAtOnce := by
  intro i s t f h hne
  cases exec_cases h with
  | value | refused | read | write | gett | sett => exact absurd rfl hne
  | load g v =>
    have hg : f = g := by
      by_contra hg
      exact hne (Snapshot.get_set_ne s.snap v hg)
    exact .inr ⟨v, hg ▸ rfl⟩
  | init => exact .inl rfl

theorem eq_idx_of_storeRead_ne {s : State} {d : Byte} {f : Field}
    (h : (storeRead d s).snap.get f ≠ s.snap.get f) : f = s.idx := by
  by_contra hf
  exact h (Snapshot.get_set_ne s.snap _ hf)

/-- On SUCCESS only the rows `RD` and `GETT` write, and only the field of the index (R34). -/
theorem SuccessStep.writes {s t : State} {d : Byte} {f : Field} (h : SuccessStep s d t)
    (hne : t.snap.get f ≠ s.snap.get f) : f = s.idx ∧ (s.op = .rd ∨ s.op = .gett) := by
  cases h with
  | endsRead v ho => exact ⟨eq_idx_of_storeRead_ne hne, ho⟩
  | nextRead g ho => exact ⟨eq_idx_of_storeRead_ne hne, .inr ho⟩
  | endsWrite | nextWrite => exact absurd rfl hne

/-- Settles O50: a discarded and a failed response keep the snapshot. -/
theorem responseWritesOnlyItsOwnField : Obligations.ResponseWritesOnlyItsOwnField := by
  intro s t o d rest f hin h hne
  rw [step_tresp hin] at h
  injection h with h
  subst h
  rcases onResponse_cases o d { s with inputs := rest } with ⟨_, e⟩ | ⟨_, _, _, e⟩ | ⟨hb, ho, e⟩ <;> rw [e] at hne
  · exact absurd rfl hne
  · exact absurd rfl hne
  · obtain ⟨hf, hop⟩ := (successStep_onSuccess d _).writes hne
    exact ⟨hb, ho, hf, hop⟩

/-! The ports of an idle block, and the reset state. -/

/-- Settles O19: the first step of `GETT` is the issue of its first read. -/
theorem gettStartsAtTheSeconds : Obligations.GettStartsAtTheSeconds :=
  fun _ _ => ⟨rfl, _, rfl, rfl, rfl, rfl, rfl, rfl, rfl, rfl⟩

theorem onResponse_idle {s : State} (o : TransportOutcome) (d : Byte) (hb : Idle s) : onResponse o d s = s := by
  simp [onResponse, hb]

/-- Settles O33: the response is taken and nothing else happens. -/
theorem idleResponseIsDiscarded : Obligations.IdleResponseIsDiscarded := by
  intro s o d rest hb hin
  rw [step_tresp hin]
  exact congrArg _ (onResponse_idle (s := { s with inputs := rest }) o d hb)

theorem onCommand_of_decode {w : CmdWord} {i : Instr} (s : State) (hd : decode w = .ok i) : onCommand w s = exec i s := by
  simp [onCommand, hd]

/-- Settles O37: the word is taken, decoded and run. -/
theorem stepRunsTheDecodedCommand : Obligations.StepRunsTheDecodedCommand := by
  intro s w i rest hb hin hd
  rw [step_cmd hb hin, onCommand_of_decode _ hd]

theorem withFetchWord_toNat (s : State) (w : CmdWord) : s.withFetchWord 16 w.toNat = presentCommand w s := by
  rw [State.withFetchWord, Nat.mod_eq_of_lt w.isLt, BitVec.ofNat_toNat, BitVec.setWidth_eq]

/-- Settles O38: the state made idle has the word first, so the step runs it. -/
theorem presentedWordRunsNext : Obligations.PresentedWordRunsNext := by
  intro s w i hd
  rw [withFetchWord_toNat]
  exact stepRunsTheDecodedCommand (presentCommand w s) w i s.inputs rfl rfl hd

/-- Settles O39: each of the five facts computes. -/
theorem resetStateIsAsSpecified : Obligations.ResetStateIsAsSpecified := ⟨rfl, rfl, rfl, rfl, rfl⟩

/-- Settles O42: nothing was emitted and the block is idle. -/
theorem wireSafeAtReset : Obligations.WireSafeAtReset := ⟨by simp [State.reset], fun h => by cases h⟩

/-- Settles O44: the block is idle. -/
theorem outstandingAtReset : Obligations.OutstandingAtReset := .of_idle rfl

/-- Settles O46: the reset snapshot is in range, and so within the bounds. -/
theorem snapBoundedAtReset : Obligations.SnapBoundedAtReset := .of_reset rfl

theorem onResponse_data_ignored {s : State} {o : TransportOutcome} (d d' : Byte)
    (h : o ≠ .success ∨ s.op = .wr ∨ s.op = .sett ∨ s.op = .init ∨ s.busy = false) :
    onResponse o d s = onResponse o d' s := by
  cases hb : s.busy with
  | false => rw [onResponse_idle o d hb, onResponse_idle o d' hb]
  | true =>
    cases o with
    | failure | timeout => rfl
    | success =>
      rw [onResponse_success d hb, onResponse_success d' hb]
      have hop : s.op = .wr ∨ s.op = .sett ∨ s.op = .init := by simpa [hb] using h
      rcases hop with h | h | h <;> simp only [onSuccess, h]

/-- Settles O51: the two steps are the two responses, from the same inputs left. -/
theorem ignoredDataHasNoEffect : Obligations.IgnoredDataHasNoEffect := by
  intro s o d d' rest h
  rw [step_tresp (d := d) rfl, step_tresp (d := d') rfl]
  exact congrArg _ (onResponse_data_ignored (s := { s with inputs := rest }) d d' h)

/-- An index names a day exactly when it is at most 6 (R24). -/
theorem weekdayOfIndex_isSome (v : Byte) : (weekdayOfIndex v).isSome = true ↔ v.toNat ≤ 6 := by
  unfold weekdayOfIndex
  match v.toNat with
  | 0 | 1 | 2 | 3 | 4 | 5 | 6 => decide
  | k + 7 => simp

/-- Settles O55: both sides say that the index is at most 6. -/
theorem weekdayIndexNamesADay : Obligations.WeekdayIndexNamesADay := by
  refine ⟨fun v => ?_, rfl⟩
  rw [weekdayOfIndex_isSome, inrange_iff]
  simp [fieldLo, fieldHi]

end Sys2Proof.Machine

namespace Sys2Proof

open Machine

/-! The decoder and the encoder (R71 to R77), on the three fields of a word. -/

theorem decode_eq_ok_iff {w : CmdWord} {i : Instr} :
    decode w = .ok i ↔ decodeFields (opField w) (fselField w) (immField w) = some i := by
  unfold decode
  cases decodeFields (opField w) (fselField w) (immField w) <;> simp

theorem decode_eq_error_iff {w : CmdWord} :
    (∃ r, decode w = .error r) ↔ decodeFields (opField w) (fselField w) (immField w) = none := by
  unfold decode
  cases decodeFields (opField w) (fselField w) (immField w) <;> simp

/-- The three fields of a command meet the line of R76 that is the command's, and no line above it. -/
theorem decodeFields_fields (i : Instr) : decodeFields i.fields.1 i.fields.2.1 i.fields.2.2 = some i := by
  cases i <;> rfl

/-- The selector of a field (R74): its index, in 4 bits. -/
def selOfField (f : Field) : BitVec 4 := BitVec.ofNat 4 (fieldIndex f)

theorem fieldOfSel_eq_some_iff {n : BitVec 4} {f : Field} : fieldOfSel n = some f ↔ n = selOfField f := by
  cases f <;> revert n <;> decide

theorem fieldOfSel_eq_none_iff {n : BitVec 4} : fieldOfSel n = none ↔ 7 ≤ n.toNat := by
  revert n; decide

theorem fields_fdecOf (f : Field) (v : Byte) : (fdecOf f v).fields = (0x3#4, selOfField f, v) := by cases f <;> rfl
theorem fields_fencOf (f : Field) (v : Byte) : (fencOf f v).fields = (0x4#4, selOfField f, v) := by cases f <;> rfl
theorem fields_ldOf (f : Field) (v : Byte) : (ldOf f v).fields = (0x5#4, selOfField f, v) := by cases f <;> rfl
theorem fields_rdOf (f : Field) : (rdOf f).fields = (0x6#4, selOfField f, 0#8) := by cases f <;> rfl
theorem fields_wrOf (f : Field) : (wrOf f).fields = (0x7#4, selOfField f, 0#8) := by cases f <;> rfl

/-- A field command found by its selector has the fields it was found by. -/
theorem fields_of_map_fieldOfSel {op fsel : BitVec 4} {imm8 : Byte} {c : Field → Instr} {i : Instr}
    (hc : ∀ f, (c f).fields = (op, selOfField f, imm8)) (h : (fieldOfSel fsel).map c = some i) :
    i.fields = (op, fsel, imm8) := by
  obtain ⟨f, hf, rfl⟩ := Option.map_eq_some_iff.1 h
  rw [hc, fieldOfSel_eq_some_iff.1 hf]

section
variable (fsel : BitVec 4) (imm8 : Byte)

/-! The ten lines of R76, each by its `op`. -/

theorem decodeFields_dec : decodeFields 0x1#4 fsel imm8 = if fsel = 0#4 then some (.dec imm8) else none := rfl
theorem decodeFields_enc : decodeFields 0x2#4 fsel imm8 = if fsel = 0#4 then some (.enc imm8) else none := rfl
theorem decodeFields_fdec : decodeFields 0x3#4 fsel imm8 = (fieldOfSel fsel).map fun f => fdecOf f imm8 := rfl
theorem decodeFields_fenc : decodeFields 0x4#4 fsel imm8 = (fieldOfSel fsel).map fun f => fencOf f imm8 := rfl
theorem decodeFields_ld : decodeFields 0x5#4 fsel imm8 = (fieldOfSel fsel).map fun f => ldOf f imm8 := rfl
theorem decodeFields_rd :
    decodeFields 0x6#4 fsel imm8 = if imm8 = 0#8 then (fieldOfSel fsel).map rdOf else none := rfl
theorem decodeFields_wr :
    decodeFields 0x7#4 fsel imm8 = if imm8 = 0#8 then (fieldOfSel fsel).map wrOf else none := rfl
theorem decodeFields_gett :
    decodeFields 0x8#4 fsel imm8 = if fsel = 0#4 ∧ imm8 = 0#8 then some .gett else none := rfl
theorem decodeFields_sett :
    decodeFields 0x9#4 fsel imm8 = if fsel = 0#4 ∧ imm8 = 0#8 then some .sett else none := rfl
theorem decodeFields_init :
    decodeFields 0xA#4 fsel imm8 = if fsel = 0#4 ∧ imm8 = 0#8 then some .init else none := rfl

theorem decodeFields_reserved {op : BitVec 4} (h : op.toNat = 0 ∨ 0xB ≤ op.toNat) :
    decodeFields op fsel imm8 = none := by
  have hop : op ≠ 0x1#4 ∧ op ≠ 0x2#4 ∧ op ≠ 0x3#4 ∧ op ≠ 0x4#4 ∧ op ≠ 0x5#4 ∧ op ≠ 0x6#4 ∧ op ≠ 0x7#4 ∧ op ≠ 0x8#4 ∧
      op ≠ 0x9#4 ∧ op ≠ 0xA#4 := by revert op; decide
  simp [decodeFields, hop]

end

/-- The eleven cases of `op` in R76. -/
theorem op_cases (op : BitVec 4) : op = 0x1#4 ∨ op = 0x2#4 ∨ op = 0x3#4 ∨ op = 0x4#4 ∨ op = 0x5#4 ∨ op = 0x6#4 ∨
    op = 0x7#4 ∨ op = 0x8#4 ∨ op = 0x9#4 ∨ op = 0xA#4 ∨ (op.toNat = 0 ∨ 0xB ≤ op.toNat) := by
  revert op; decide

/-- Each line of R76 answers a command that has the fields the line was taken by. -/
theorem fields_of_decodeFields {op fsel : BitVec 4} {imm8 : Byte} {i : Instr}
    (h : decodeFields op fsel imm8 = some i) : i.fields = (op, fsel, imm8) := by
  rcases op_cases op with rfl | rfl | rfl | rfl | rfl | rfl | rfl | rfl | rfl | rfl | hop
  · obtain ⟨rfl, ⟨⟩⟩ := Option.ite_none_right_eq_some.1 (decodeFields_dec .. ▸ h)
    rfl
  · obtain ⟨rfl, ⟨⟩⟩ := Option.ite_none_right_eq_some.1 (decodeFields_enc .. ▸ h)
    rfl
  · exact fields_of_map_fieldOfSel (fields_fdecOf · imm8) h
  · exact fields_of_map_fieldOfSel (fields_fencOf · imm8) h
  · exact fields_of_map_fieldOfSel (fields_ldOf · imm8) h
  · obtain ⟨rfl, h⟩ := Option.ite_none_right_eq_some.1 (decodeFields_rd .. ▸ h)
    exact fields_of_map_fieldOfSel fields_rdOf h
  · obtain ⟨rfl, h⟩ := Option.ite_none_right_eq_some.1 (decodeFields_wr .. ▸ h)
    exact fields_of_map_fieldOfSel fields_wrOf h
  · obtain ⟨⟨rfl, rfl⟩, ⟨⟩⟩ := Option.ite_none_right_eq_some.1 (decodeFields_gett .. ▸ h)
    rfl
  · obtain ⟨⟨rfl, rfl⟩, ⟨⟩⟩ := Option.ite_none_right_eq_some.1 (decodeFields_sett .. ▸ h)
    rfl
  · obtain ⟨⟨rfl, rfl⟩, ⟨⟩⟩ := Option.ite_none_right_eq_some.1 (decodeFields_init .. ▸ h)
    rfl
  · rw [decodeFields_reserved _ _ hop] at h
    cases h

theorem decodeFields_eq_none_iff {op fsel : BitVec 4} {imm8 : Byte} : decodeFields op fsel imm8 = none ↔
    (op.toNat = 0 ∨ 0xB ≤ op.toNat) ∨
    ((op.toNat = 1 ∨ op.toNat = 2) ∧ fsel.toNat ≠ 0) ∨
    (3 ≤ op.toNat ∧ op.toNat ≤ 7 ∧ 7 ≤ fsel.toNat) ∨
    ((op.toNat = 6 ∨ op.toNat = 7) ∧ imm8.toNat ≠ 0) ∨
    ((op.toNat = 8 ∨ op.toNat = 9 ∨ op.toNat = 0xA) ∧ (fsel.toNat ≠ 0 ∨ imm8.toNat ≠ 0)) := by
  rcases op_cases op with rfl | rfl | rfl | rfl | rfl | rfl | rfl | rfl | rfl | rfl | hop
  · simp [decodeFields_dec, ← BitVec.toNat_inj]
  · simp [decodeFields_enc, ← BitVec.toNat_inj]
  · simp [decodeFields_fdec, fieldOfSel_eq_none_iff]
  · simp [decodeFields_fenc, fieldOfSel_eq_none_iff]
  · simp [decodeFields_ld, fieldOfSel_eq_none_iff]
  · simp [decodeFields_rd, fieldOfSel_eq_none_iff, ← BitVec.toNat_inj, imp_iff_or_not]
  · simp [decodeFields_wr, fieldOfSel_eq_none_iff, ← BitVec.toNat_inj, imp_iff_or_not]
  · simp [decodeFields_gett, ← BitVec.toNat_inj, imp_iff_not_or]
  · simp [decodeFields_sett, ← BitVec.toNat_inj, imp_iff_not_or]
  · simp [decodeFields_init, ← BitVec.toNat_inj, imp_iff_not_or]
  · exact iff_of_true (decodeFields_reserved _ _ hop) (.inl hop)

theorem encode_eq_of_fields {i : Instr} {w : CmdWord} (h : i.fields = (opField w, fselField w, immField w)) :
    encode i = w := by
  rw [encode, h, packWord_fields]

end Sys2Proof

namespace Sys2Proof.Machine

/-- Settles O1: the word's three fields are the command's, and the command's fields decode to it. -/
theorem decodeOfEncodeIsIdentity : Obligations.DecodeOfEncodeIsIdentity := by
  intro i
  obtain ⟨hop, hfsel, himm⟩ := Laws.WordFields.of_pack i
  rw [decode_eq_ok_iff, hop, hfsel, himm, decodeFields_fields]

/-- Settles O2: the command decoded has the word's three fields. -/
theorem encodeOfDecodeIsIdentity : Obligations.EncodeOfDecodeIsIdentity := by
  intro w i h
  exact encode_eq_of_fields (fields_of_decodeFields (decode_eq_ok_iff.1 h))

theorem onCommand_of_error {w : CmdWord} {r : Reject} (s : State) (hd : decode w = .error r) :
    onCommand w s = .next (raise .illegalCommand s) := by
  simp [onCommand, hd]

/-- Settles O3: the three fields of the word as numbers; the step raises IllegalCommand. -/
theorem illegalWordsAreThoseListed : Obligations.IllegalWordsAreThoseListed := by
  refine ⟨fun w => ?_, ⟨.reservedOp, by decide⟩, ⟨.reservedOp, by decide⟩, fun s w r rest hb hin hd => ?_⟩
  · rw [decode_eq_error_iff, decodeFields_eq_none_iff, opField_toNat, fselField_toNat, immField_toNat]
  · rw [step_cmd hb hin, onCommand_of_error _ hd]
    exact ⟨_, rfl, rfl, rfl, rfl, rfl, rfl⟩

/-- Settles O4: each word is decoded. -/
theorem wordsOfTheSpecDecode : Obligations.WordsOfTheSpecDecode := by
  unfold Obligations.WordsOfTheSpecDecode
  decide

end Sys2Proof.Machine

namespace Sys2Proof

open Machine

/-! The rows of the opcode table are the rows of the 40 commands (R74, R76). -/

/-- A command carries an operand when its `op` is at most 5 (R72): its row then leaves the operand free. -/
def takesOperand (op : BitVec 4) : Bool := op ≤ 0x5#4

/-- The format of a command's `op` (R72). -/
def formatOfOp (op : BitVec 4) : Format :=
  if op ≤ 0x2#4 then .i else if op ≤ 0x5#4 then .fi else if op ≤ 0x7#4 then .f else .z

/-- The row of the opcode table that a command's fields call for. -/
def Instr.row (i : Instr) : OpcodeRow where
  mnemonic := i.mnemonic
  format := formatOfOp i.fields.1
  mask := packWord (.allOnes 4) (.allOnes 4) (if takesOperand i.fields.1 then 0#8 else .allOnes 8)
  pattern := packWord i.fields.1 i.fields.2.1 0#8

/-- The 40 commands in the order of the table, those with an operand with this one. -/
def commandsWith (v : Byte) : List Instr :=
  [.dec v, .enc v] ++ compositeOrder.map (fdecOf · v) ++ compositeOrder.map (fencOf · v) ++
    compositeOrder.map (ldOf · v) ++ compositeOrder.map rdOf ++ compositeOrder.map wrOf ++ [.gett, .sett, .init]

/-- The row does not depend on the operand. -/
theorem map_row_commandsWith (v : Byte) : (commandsWith v).map Instr.row = (commandsWith 0#8).map Instr.row := rfl

theorem opcodeTable_eq_map_row (v : Byte) : opcodeTable = (commandsWith v).map Instr.row := by
  rw [map_row_commandsWith]
  rfl

theorem mem_commandsWith_operand (i : Instr) : i ∈ commandsWith i.fields.2.2 := by
  cases i <;> simp [commandsWith, compositeOrder, Instr.fields, fdecOf, fencOf, ldOf, rdOf, wrOf]

theorem operand_of_mem_commandsWith {i : Instr} {v : Byte} (hi : i ∈ commandsWith v) :
    i.fields.2.2 = if takesOperand i.fields.1 then v else 0#8 := by
  simp only [commandsWith, List.mem_append, List.mem_map, List.mem_cons, List.not_mem_nil, or_false] at hi
  rcases hi with ((((((rfl | rfl) | ⟨f, _, rfl⟩) | ⟨f, _, rfl⟩) | ⟨f, _, rfl⟩) | ⟨f, _, rfl⟩) | ⟨f, _, rfl⟩) |
    rfl | rfl | rfl
  · rfl
  · rfl
  · rw [fields_fdecOf]; rfl
  · rw [fields_fencOf]; rfl
  · rw [fields_ldOf]; rfl
  · rw [fields_rdOf]; rfl
  · rw [fields_wrOf]; rfl
  · rfl
  · rfl
  · rfl

theorem row_mem_opcodeTable (i : Instr) : i.row ∈ opcodeTable := by
  rw [opcodeTable_eq_map_row i.fields.2.2]
  exact List.mem_map_of_mem (mem_commandsWith_operand i)

theorem exists_row_eq {r : OpcodeRow} (v : Byte) (hr : r ∈ opcodeTable) : ∃ i ∈ commandsWith v, i.row = r := by
  rw [opcodeTable_eq_map_row v] at hr
  exact List.mem_map.1 hr

theorem packWord_and (op op' fsel fsel' : BitVec 4) (imm8 imm8' : Byte) :
    packWord op fsel imm8 &&& packWord op' fsel' imm8' = packWord (op &&& op') (fsel &&& fsel') (imm8 &&& imm8') := by
  exact BitVec.and_append.trans (congrArg (· ++ (imm8 &&& imm8')) BitVec.and_append)

theorem packWord_inj {op op' fsel fsel' : BitVec 4} {imm8 imm8' : Byte} :
    packWord op fsel imm8 = packWord op' fsel' imm8' ↔ op = op' ∧ fsel = fsel' ∧ imm8 = imm8' := by
  refine ⟨fun h => ⟨?_, ?_, ?_⟩, fun ⟨hop, hfsel, himm⟩ => by rw [hop, hfsel, himm]⟩
  · simpa only [opField_packWord] using congrArg opField h
  · simpa only [fselField_packWord] using congrArg fselField h
  · simpa only [immField_packWord] using congrArg immField h

theorem and_operandMask (v : Byte) (free : Bool) :
    v &&& (if free then 0#8 else .allOnes 8) = if free then 0#8 else v := by
  cases free
  · exact BitVec.and_allOnes
  · exact BitVec.and_zero

/-- The words of a command's row: its `op` and `fsel`, and its operand zero unless it is free (R76). -/
theorem in_row_iff (w : CmdWord) (i : Instr) : w &&& i.row.mask = i.row.pattern ↔
    opField w = i.fields.1 ∧ fselField w = i.fields.2.1 ∧ (takesOperand i.fields.1 = false → immField w = 0#8) := by
  rw [← packWord_fields w, Instr.row, packWord_and, packWord_inj, BitVec.and_allOnes, BitVec.and_allOnes,
    and_operandMask, packWord_fields]
  cases takesOperand i.fields.1 <;> simp

/-- The word of a command lies in the command's row. -/
theorem encode_in_row (i : Instr) : encode i &&& i.row.mask = i.row.pattern := by
  obtain ⟨hop, hfsel, himm⟩ := Laws.WordFields.of_pack i
  refine (in_row_iff _ i).2 ⟨hop, hfsel, fun h => ?_⟩
  rw [himm, operand_of_mem_commandsWith (mem_commandsWith_operand i), h]
  rfl

/-- A word of a row is the word of the row's command with the word's own operand. -/
theorem encode_of_in_row {w : CmdWord} {i : Instr} (hi : i ∈ commandsWith (immField w))
    (h : w &&& i.row.mask = i.row.pattern) : encode i = w := by
  obtain ⟨hop, hfsel, himm⟩ := (in_row_iff w i).1 h
  have hoperand : i.fields.2.2 = immField w := by
    rw [operand_of_mem_commandsWith hi]
    cases ht : takesOperand i.fields.1 with
    | true => rfl
    | false => exact (himm ht).symm
  exact encode_eq_of_fields (Prod.ext hop.symm (Prod.ext hfsel.symm hoperand))

/-- Every word of a row decodes to a command of the row's mnemonic. -/
theorem decode_of_in_row {r : OpcodeRow} {w : CmdWord} (hr : r ∈ opcodeTable) (h : w &&& r.mask = r.pattern) :
    ∃ i, decode w = .ok i ∧ i.mnemonic = r.mnemonic := by
  obtain ⟨i, hi, rfl⟩ := exists_row_eq (immField w) hr
  exact ⟨i, encode_of_in_row hi h ▸ decodeOfEncodeIsIdentity i, rfl⟩

theorem nodup_mnemonics : (opcodeTable.map OpcodeRow.mnemonic).Nodup := by decide

end Sys2Proof

namespace Sys2Proof.Machine

/-- Settles O5: the rows are the commands' rows; two rows with a common word would have one mnemonic. -/
theorem opcodeTableAgreesWithDecoder : Obligations.OpcodeTableAgreesWithDecoder := by
  refine ⟨fun w i h => ?_, fun r hr w => decode_of_in_row hr, ?_⟩
  · exact ⟨i.row, row_mem_opcodeTable i, rfl, encodeOfDecodeIsIdentity w i h ▸ encode_in_row i⟩
  · refine (List.pairwise_map.1 nodup_mnemonics).imp_of_mem fun hr hr' hne w ⟨h, h'⟩ => hne ?_
    obtain ⟨i, hi, hm⟩ := decode_of_in_row hr h
    obtain ⟨i', hi', hm'⟩ := decode_of_in_row hr' h'
    obtain rfl : i = i' := Except.ok.inj (hi.symm.trans hi')
    exact hm.symm.trans hm'

end Sys2Proof.Machine

namespace Sys2Proof.Machine

/-! The assembler (R83, R84). -/

/-- A mnemonic finds its command's row, since no other row has it. -/
theorem find_row (i : Instr) : (opcodeTable.find? fun r => r.mnemonic == i.mnemonic) = some i.row := by
  have hmem := row_mem_opcodeTable i
  cases h : opcodeTable.find? fun r => r.mnemonic == i.mnemonic with
  | none => exact absurd (beq_self_eq_true i.mnemonic) (List.find?_eq_none.1 h i.row hmem)
  | some r =>
    have hm : r.mnemonic = i.mnemonic := by simpa using List.find?_some h
    rw [List.inj_on_of_nodup_map nodup_mnemonics (List.mem_of_find?_eq_some h) hmem hm]

theorem formatOfOp_of_operand {op : BitVec 4} (h : takesOperand op = true) :
    formatOfOp op = .i ∨ formatOfOp op = .fi := by
  revert op; decide

theorem formatOfOp_of_no_operand {op : BitVec 4} (h : takesOperand op = false) :
    formatOfOp op = .f ∨ formatOfOp op = .z := by
  revert op; decide

/-- A mnemonic with a number assembles to its row's pattern and the number (R83). -/
theorem commandWord_some {i : Instr} {v : Nat} (h : takesOperand i.fields.1 = true) (hv : v ≤ 255) :
    commandWord i.mnemonic (some v) = .ok (i.row.pattern + BitVec.ofNat 16 v) := by
  have hformat : i.row.format = .i ∨ i.row.format = .fi := formatOfOp_of_operand h
  rcases hformat with hf | hf <;> simp [commandWord, find_row, hf, hv]

/-- A mnemonic alone assembles to its row's pattern (R83). -/
theorem commandWord_none {i : Instr} (h : takesOperand i.fields.1 = false) :
    commandWord i.mnemonic none = .ok i.row.pattern := by
  have hformat : i.row.format = .f ∨ i.row.format = .z := formatOfOp_of_no_operand h
  rcases hformat with hf | hf <;> simp [commandWord, find_row, hf]

/-- The name `SETx` of a field (R84 a). -/
def setNameOf (f : Field) : String :=
  match f with
  | .sec => "SETSEC"
  | .min => "SETMIN"
  | .hr => "SETHR"
  | .wd => "SETWD"
  | .dt => "SETDT"
  | .mon => "SETMON"
  | .yr => "SETYR"

theorem find_setNameOf (f : Field) : (setNames.find? fun p => p.1 == setNameOf f) =
    some (setNameOf f, (ldOf f 0#8).mnemonic, (wrOf f).mnemonic) := by
  cases f <;> decide

theorem row_ldOf_pattern (f : Field) : (ldOf f 0#8).row.pattern = BitVec.ofNat 16 (0x5000 + 0x100 * fieldIndex f) := by
  cases f <;> rfl

theorem row_wrOf_pattern (f : Field) : (wrOf f).row.pattern = BitVec.ofNat 16 (0x7000 + 0x100 * fieldIndex f) := by
  cases f <;> rfl

/-- `SETx v` is `LDx v` and `WRx` (R84 a). -/
theorem assembleLine_set (f : Field) {v : Nat} (hv : v ≤ 255) : assembleLine ⟨setNameOf f, some v⟩ =
    .ok [BitVec.ofNat 16 (0x5000 + 0x100 * fieldIndex f + v), BitVec.ofNat 16 (0x7000 + 0x100 * fieldIndex f)] := by
  have hld := commandWord_some (i := ldOf f 0#8) (by rw [fields_ldOf]; rfl) hv
  have hwr := commandWord_none (i := wrOf f) (by rw [fields_wrOf]; rfl)
  rw [row_ldOf_pattern, ← BitVec.ofNat_add] at hld
  rw [row_wrOf_pattern] at hwr
  simp only [assembleLine, find_setNameOf, hld, hwr]

/-- Another name with a number is the one command it names (R84 b). -/
theorem assembleLine_operand {m : String} {i : Instr} {v : Nat} (hset : (setNames.find? fun p => p.1 == m) = none)
    (hname : commandName m = i.mnemonic) (h : takesOperand i.fields.1 = true) (hv : v ≤ 255) :
    assembleLine ⟨m, some v⟩ = .ok [i.row.pattern + BitVec.ofNat 16 v] := by
  simp only [assembleLine, hset, hname, commandWord_some h hv]
  rfl

theorem assembleLine_decode {v : Nat} (hv : v ≤ 255) :
    assembleLine ⟨"decode", some v⟩ = .ok [BitVec.ofNat 16 (0x1000 + v)] := by
  rw [BitVec.ofNat_add]
  exact assembleLine_operand (i := .dec 0#8) (by decide) (by decide) rfl hv

theorem assembleLine_encode {v : Nat} (hv : v ≤ 255) :
    assembleLine ⟨"encode", some v⟩ = .ok [BitVec.ofNat 16 (0x2000 + v)] := by
  rw [BitVec.ofNat_add]
  exact assembleLine_operand (i := .enc 0#8) (by decide) (by decide) rfl hv

/-- Settles O54: the lines without a free operand are evaluated. -/
theorem assemblerExpandsThePseudoInstructions : Obligations.AssemblerExpandsThePseudoInstructions := by
  refine ⟨by decide, fun v hv => ?_, by decide⟩
  exact ⟨assembleLine_set .sec hv, assembleLine_set .min hv, assembleLine_set .hr hv, assembleLine_set .wd hv,
    assembleLine_set .dt hv, assembleLine_set .mon hv, assembleLine_set .yr hv, assembleLine_decode hv,
    assembleLine_encode hv⟩

end Sys2Proof.Machine

namespace Sys2Proof.Machine

/-! The digit codec commands and the codec's laws (R100 to R107). -/

/-- The word of a command with an operand is the word of its operand 0 plus the operand (R71). -/
theorem packWord_eq_add (op fsel : BitVec 4) (imm8 : Byte) :
    packWord op fsel imm8 = packWord op fsel 0#8 + imm8.setWidth 16 := by
  apply BitVec.eq_of_toNat_eq
  have hword := (packWord op fsel imm8).isLt
  rw [packWord_toNat] at hword
  rw [BitVec.toNat_add, packWord_toNat, packWord_toNat, BitVec.toNat_setWidth, BitVec.toNat_ofNat]
  omega

/-- Settles O6: the value of `dec` as a number, and the end of a command with a value. -/
theorem decReturnsTensAndOnes : Obligations.DecReturnsTensAndOnes := by
  intro b s _
  refine ⟨packWord_eq_add 0x1#4 0#4 b, ?_, dec_toNat b, ?_⟩
  · have hb := b.isLt
    omega
  · rw [← dec_toNat, BitVec.ofNat_toNat]
    exact endsWith_finish (dec b) s

/-- Settles O7: the value of `enc` as a number, and the end of a command with a value. -/
theorem encPacksTensAndOnes : Obligations.EncPacksTensAndOnes := by
  intro v s _
  have henc : (enc v).toNat = 16 * (v.toNat / 10 % 16) + v.toNat % 10 := by rw [enc_toNat, Nat.mul_comm]
  refine ⟨packWord_eq_add 0x2#4 0#4 v, henc, ?_⟩
  rw [← henc, BitVec.ofNat_toNat]
  exact endsWith_finish (enc v) s

/-- Four bits of tens and the ones are the value modulo 160, for all 256 values (R107). -/
theorem dec_enc_toNat (v : Byte) : (dec (enc v)).toNat = v.toNat % 160 := by
  rw [dec_toNat, enc_toNat]
  omega

theorem dec_enc_of_lt {v : Byte} (h : v.toNat < 160) : dec (enc v) = v :=
  BitVec.eq_of_toNat_eq ((dec_enc_toNat v).trans (Nat.mod_eq_of_lt h))

/-- Two decimal digits are packed as they were (R104). -/
theorem enc_dec_of_digits {b : Byte} (hhigh : b.toNat / 16 ≤ 9) (hlow : b.toNat % 16 ≤ 9) : enc (dec b) = b := by
  apply BitVec.eq_of_toNat_eq
  rw [enc_toNat, dec_toNat]
  omega

/-- Settles O8: values up to 99 are below 160, and both nibbles are digits. -/
theorem codecRoundTrips : Obligations.CodecRoundTrips :=
  ⟨fun _ h => dec_enc_of_lt (by omega), fun _ => enc_dec_of_digits⟩

/-- Settles O9: a value from 160 to 255 modulo 160 is the value less 160. -/
theorem encAbove99Truncates : Obligations.EncAbove99Truncates := by
  refine ⟨fun v _ h => dec_enc_of_lt (by omega), fun v h => ?_⟩
  have hv := v.isLt
  rw [dec_enc_toNat]
  omega

end Sys2Proof.Machine

namespace Sys2Proof.Machine

/-! The field tables of R120 as masks: which bits a write forces, which a read clears, and which a value in range can set. -/

/-- A bit forced set is not forced clear (R123). -/
theorem wor_and_wand (f : Field) : wor f &&& wand f = wor f := by cases f <;> rfl

theorem wor_and_not_wand (f : Field) : wor f &&& ~~~(wand f) = 0#8 := by cases f <;> rfl

/-- A bit forced set is a bit the read clears (R121, R122). -/
theorem wor_and_rmask (f : Field) : wor f &&& rmask f = 0#8 := by cases f <;> rfl

/-- A bit forced clear is a bit the read clears (R121, R122). -/
theorem rmask_and_wand (f : Field) : rmask f &&& wand f = rmask f := by cases f <;> rfl

/-- A value in range is encoded in the bits that the read keeps, over all 256 bytes (R123). -/
theorem encodeRaw_and_rmask {f : Field} {v : Byte} (h : inrange f v = true) : encodeRaw f v &&& rmask f = encodeRaw f v := by
  cases f <;> revert v <;> decide

theorem encodeRaw_and_wand {f : Field} {v : Byte} (h : inrange f v = true) : encodeRaw f v &&& wand f = encodeRaw f v := by
  rw [← encodeRaw_and_rmask h, BitVec.and_assoc, rmask_and_wand]

theorem or_wor_and_wand (f : Field) (e : Byte) : (e ||| wor f) &&& wand f = (e &&& wand f) ||| wor f := by
  rw [BitVec.and_or_distrib_right, wor_and_wand]

/-- The read takes off what the write forced (R130). -/
theorem fenc_and_rmask {f : Field} {v : Byte} (h : inrange f v = true) : fenc f v &&& rmask f = encodeRaw f v :=
  calc fenc f v &&& rmask f
      = (encodeRaw f v ||| wor f) &&& (rmask f &&& wand f) := by rw [fenc, BitVec.and_assoc, BitVec.and_comm (wand f)]
    _ = (encodeRaw f v &&& rmask f) ||| (wor f &&& rmask f) := by rw [rmask_and_wand, BitVec.and_or_distrib_right]
    _ = encodeRaw f v := by rw [encodeRaw_and_rmask h, wor_and_rmask, BitVec.or_zero]

/-- Settles O14: the two forced sets are disjoint, and a value in range sets no bit that the AND forces clear. -/
theorem forcedBitsAreConsistent : Obligations.ForcedBitsAreConsistent :=
  fun f => ⟨wor_and_not_wand f, or_wor_and_wand f, fun _ => encodeRaw_and_wand⟩

/-! Control bits on the wire (R122, R304). -/

theorem addr_inj {f g : Field} (h : addr f = addr g) : f = g := by
  revert h; cases f <;> cases g <;> decide

/-- A legal write at a field's address carries the encoding of a value in that field's range. -/
theorem LegalRequest.wdata_of_write {r : Request} (h : LegalRequest r) (hw : r.kind = .write) {f : Field}
    (hreg : r.reg = addr f) : ∃ v, inrange f v = true ∧ r.wdata = fenc f v := by
  obtain ⟨_, g, hg, ⟨hr, _⟩ | ⟨_, v, hv, hd⟩⟩ := h
  · simp [hr] at hw
  · obtain rfl : g = f := addr_inj (hg.symm.trans hreg)
    exact ⟨v, hv, hd⟩

theorem getLsbD_fenc (f : Field) (v : Byte) (i : Nat) :
    (fenc f v).getLsbD i = (((encodeRaw f v).getLsbD i || (wor f).getLsbD i) && (wand f).getLsbD i) := by
  rw [fenc, BitVec.getLsbD_and, BitVec.getLsbD_or]

theorem getLsbD_fenc_of_forced_set {f : Field} {i : Nat} (v : Byte) (hor : (wor f).getLsbD i = true)
    (hand : (wand f).getLsbD i = true) : (fenc f v).getLsbD i = true := by
  simp [getLsbD_fenc, hor, hand]

theorem getLsbD_fenc_of_forced_clear {f : Field} {i : Nat} (v : Byte) (hand : (wand f).getLsbD i = false) :
    (fenc f v).getLsbD i = false := by
  simp [getLsbD_fenc, hand]

/-- No bit of the weekday is forced: its upper bits are clear because the value is in range (R122, R125). -/
theorem fenc_wd_upper_bits {v : Byte} (h : inrange .wd v = true) : fenc .wd v &&& 0xF8#8 = 0#8 := by
  obtain ⟨_, _, _, hraw, _⟩ := fenc_eq v
  have hkept : v &&& 0x07#8 = v := encodeRaw_and_rmask (f := .wd) h
  rw [hraw, ← hkept, BitVec.and_assoc]
  exact BitVec.and_zero

/-- Settles O47: the address names the field, and the byte is the encoding of a value in its range. -/
theorem writtenControlBitsFollowThePolicy : Obligations.WrittenControlBitsFollowThePolicy := by
  intro s r hs hr hw
  have hlegal : LegalRequest r := hs.1 r hr
  refine ⟨fun hreg => ?_, fun hreg => ?_, fun hreg => ?_, fun hreg => ?_⟩
  · obtain ⟨v, _, hd⟩ := hlegal.wdata_of_write hw (f := .sec) hreg
    exact hd ▸ getLsbD_fenc_of_forced_set v rfl rfl
  · obtain ⟨v, _, hd⟩ := hlegal.wdata_of_write hw (f := .hr) hreg
    exact hd ▸ getLsbD_fenc_of_forced_clear v rfl
  · obtain ⟨v, _, hd⟩ := hlegal.wdata_of_write hw (f := .mon) hreg
    exact hd ▸ getLsbD_fenc_of_forced_clear v rfl
  · obtain ⟨v, hv, hd⟩ := hlegal.wdata_of_write hw (f := .wd) hreg
    exact hd ▸ fenc_wd_upper_bits hv

/-! The fourteen field codec commands (R132 to R146). -/

/-- The word of an `FDECx` is the word of its operand 0 plus the operand (R74). -/
theorem encode_fdecOf (f : Field) (b : Byte) : encode (fdecOf f b) = encode (fdecOf f 0#8) + b.setWidth 16 := by
  rw [encode, encode, fields_fdecOf, fields_fdecOf]
  exact packWord_eq_add _ _ b

theorem encode_fencOf (f : Field) (v : Byte) : encode (fencOf f v) = encode (fencOf f 0#8) + v.setWidth 16 := by
  rw [encode, encode, fields_fencOf, fields_fencOf]
  exact packWord_eq_add _ _ v

theorem exec_fdecOf (f : Field) (b : Byte) (s : State) : exec (fdecOf f b) s = .next (finish (fdec f b) s) := by
  cases f <;> rfl

theorem exec_fencOf (f : Field) (v : Byte) (s : State) : exec (fencOf f v) s = .next (finish (fenc f v) s) := by
  cases f <;> rfl

/-- An `FDECx` in full, for the value `fdec` gives (R132). -/
theorem fdecOf_spec (f : Field) (b : Byte) (s : State) {v : Byte} (h : fdec f b = v) :
    encode (fdecOf f b) = encode (fdecOf f 0#8) + b.setWidth 16 ∧
    EndsWith (exec (fdecOf f b) s) s s.snap (v.setWidth 16) s.inputs := by
  refine ⟨encode_fdecOf f b, ?_⟩
  rw [exec_fdecOf, h]
  exact endsWith_finish v s

/-- A `FENCx` in full, for the byte `fenc` gives (R132). -/
theorem fencOf_spec (f : Field) (v : Byte) (s : State) {b : Byte} (h : fenc f v = b) :
    encode (fencOf f v) = encode (fencOf f 0#8) + v.setWidth 16 ∧
    EndsWith (exec (fencOf f v) s) s s.snap (b.setWidth 16) s.inputs := by
  refine ⟨encode_fencOf f v, ?_⟩
  rw [exec_fencOf, h]
  exact endsWith_finish b s

/-- Settles O10: the seven fields' rows of one fact. -/
theorem fdecCommandsMaskAndDecode : Obligations.FdecCommandsMaskAndDecode := by
  intro b s _
  obtain ⟨hsec, hmin, hhr, hwd, hdt, hmon, hyr⟩ := fdec_eq b
  exact ⟨fdecOf_spec .sec b s hsec, fdecOf_spec .min b s hmin, fdecOf_spec .hr b s hhr, fdecOf_spec .wd b s hwd,
    fdecOf_spec .dt b s hdt, fdecOf_spec .mon b s hmon, fdecOf_spec .yr b s hyr⟩

/-- Settles O11: the seven fields' rows of one fact. -/
theorem fencCommandsEncodeAndForce : Obligations.FencCommandsEncodeAndForce := by
  intro v s _
  obtain ⟨hsec, hmin, hhr, hwd, hdt, hmon, hyr⟩ := fenc_eq v
  exact ⟨fencOf_spec .sec v s hsec, fencOf_spec .min v s hmin, fencOf_spec .hr v s hhr, fencOf_spec .wd v s hwd,
    fencOf_spec .dt v s hdt, fencOf_spec .mon v s hmon, fencOf_spec .yr v s hyr⟩

/-! What the field decoder gives back (R129, R130, R131). -/

theorem fieldHi_le_99 (f : Field) : (fieldHi f).toNat ≤ 99 := by cases f <;> decide

/-- Settles O12: the mask gives back the encoded value, and decoding undoes the encoding up to 99. -/
theorem fieldRoundTrip : Obligations.FieldRoundTrip := by
  intro f v h
  have hv : v.toNat < 160 := by
    have hhi := fieldHi_le_99 f
    have hle := ((inrange_iff f v).1 h).2
    omega
  rw [fdec, fenc_and_rmask h, encodeRaw]
  split
  case isTrue => exact dec_enc_of_lt hv
  case isFalse => rfl

theorem fdec_all_ones (f : Field) : fdec f 0xFF#8 = largestRead f := by cases f <;> rfl

theorem fieldHi_lt_largestRead (f : Field) : fieldHi f < largestRead f := by cases f <;> decide

/-- Settles O13: the bound over all bytes, the byte that reaches it, and the table of R21 below it. -/
theorem largestDecodedValues : Obligations.LargestDecodedValues :=
  fun f => ⟨fdec_le_largestRead f, fdec_all_ones f, fieldHi_lt_largestRead f⟩

theorem fdec_congr {f : Field} {d d' : Byte} (h : d &&& rmask f = d' &&& rmask f) : fdec f d = fdec f d' := by
  rw [fdec, fdec, h]

/-- A response's data enters the state only by the value stored in `S[i]` (R34). -/
theorem onSuccess_congr {s : State} {d d' : Byte} (h : fdec s.idx d = fdec s.idx d') : onSuccess d s = onSuccess d' s := by
  have hstore : storeRead d s = storeRead d' s := by rw [storeRead, storeRead, h]
  cases ho : s.op with
  | rd => simp only [onSuccess, ho, respondRd, hstore]
  | gett => simp only [onSuccess, ho, respondGett, hstore]
  | wr | sett | init => simp only [onSuccess, ho]

theorem onResponse_congr {s : State} (o : TransportOutcome) {d d' : Byte} (h : fdec s.idx d = fdec s.idx d') :
    onResponse o d s = onResponse o d' s := by
  rw [onResponse, onResponse, onSuccess_congr h]

/-- Settles O52: the two bytes decode to one value, and the response uses no more of them. -/
theorem maskedBitsHaveNoEffect : Obligations.MaskedBitsHaveNoEffect := by
  intro s o d d' rest h
  rw [step_tresp (d := d) rfl, step_tresp (d := d') rfl]
  exact congrArg _ (onResponse_congr (s := { s with inputs := rest }) o (fdec_congr h))

end Sys2Proof.Machine

namespace Sys2Proof.Machine

/-! The seven snapshot load commands (R160 to R167). -/

/-- The word of an `LDx` is the word of its operand 0 plus the operand (R74). -/
theorem encode_ldOf (f : Field) (v : Byte) : encode (ldOf f v) = encode (ldOf f 0#8) + v.setWidth 16 := by
  rw [encode, encode, fields_ldOf, fields_ldOf]
  exact packWord_eq_add _ _ v

theorem exec_ldOf (f : Field) (v : Byte) (s : State) : exec (ldOf f v) s = .next (loadField f v s) := by
  cases f <;> rfl

/-- A command that raises ends with the exception's word and no effect of its own (R255). -/
theorem endsWith_raise (e : BlockException) (s : State) :
    EndsWith (.next (raise e s)) s s.snap (exceptionWord e) s.inputs :=
  ⟨_, rfl, rfl, rfl, rfl, rfl, rfl⟩

/-- An `LDx` in full, for any form `P` of the field's range check (R160). -/
theorem ldOf_spec (f : Field) (v : Byte) (s : State) {P : Prop} (hP : inrange f v = true ↔ P) :
    encode (ldOf f v) = encode (ldOf f 0#8) + v.setWidth 16 ∧
    (P → EndsWith (exec (ldOf f v) s) s (s.snap.set f v) (v.setWidth 16) s.inputs) ∧
    (¬P → EndsWith (exec (ldOf f v) s) s s.snap (exceptionWord (.outOfRangeValue f)) s.inputs) := by
  refine ⟨encode_ldOf f v, ?_⟩
  rw [exec_ldOf]
  rcases loadField_cases f v s with ⟨hin, hstored⟩ | ⟨hout, hrefused⟩
  · have hp : P := hP.1 hin
    rw [hstored]
    exact ⟨fun _ => endsWith_finish v (setField f v s), absurd hp⟩
  · have hp : ¬P := hP.not.1 (by simp [hout])
    rw [hrefused]
    exact ⟨fun h => absurd h hp, fun _ => endsWith_raise _ s⟩

/-- Five of the seven fields begin at 0, which bounds no byte: only `HI[f]` is left of the check (R21, R128). -/
theorem inrange_iff_of_fieldLo_zero {f : Field} (v : Byte) (h : fieldLo f = 0#8) :
    inrange f v = true ↔ v.toNat ≤ (fieldHi f).toNat := by
  simp [inrange_iff, h]

/-- Settles O15: the seven fields' rows of one fact, with the bounds of R21. -/
theorem loadsStoreOrRefuse : Obligations.LoadsStoreOrRefuse := by
  intro v s _
  exact ⟨ldOf_spec .sec v s (inrange_iff_of_fieldLo_zero v rfl), ldOf_spec .min v s (inrange_iff_of_fieldLo_zero v rfl),
    ldOf_spec .hr v s (inrange_iff_of_fieldLo_zero v rfl), ldOf_spec .wd v s (inrange_iff_of_fieldLo_zero v rfl),
    ldOf_spec .dt v s (inrange_iff .dt v), ldOf_spec .mon v s (inrange_iff .mon v),
    ldOf_spec .yr v s (inrange_iff_of_fieldLo_zero v rfl)⟩

end Sys2Proof.Machine

namespace Sys2Proof.Machine

/-! The seven field read commands (R180 to R187). -/

theorem encode_rdOf (f : Field) : encode (rdOf f) = BitVec.ofNat 16 (0x6000 + 0x100 * fieldIndex f) := by
  cases f <;> rfl

theorem exec_rdOf (f : Field) (s : State) : exec (rdOf f) s = .next (issueRead .rd f s) := by cases f <;> rfl

theorem waitsWith_issueRead (op : SeqOp) (f : Field) (s : State) :
    WaitsWith (.next (issueRead op f s)) s s.snap op f (readAt (addr f)) s.inputs :=
  ⟨_, rfl, rfl, rfl, rfl, rfl, rfl, rfl, rfl⟩

/-- The two failures end every waiting command in one way (R33), so that only its answer to SUCCESS is its own. -/
theorem answeredWith_of_success {t : State} {S : Byte → Snapshot} {w : Byte → ResultWord} (hb : t.busy = true)
    (hsuccess : ∀ d rest, EndsWith (step { t with inputs := .tresp .success d :: rest }) t (S d) (w d) rest) :
    AnsweredWith t (fieldIndex t.idx) t.snap S w := by
  intro d rest
  have hfails (o : TransportOutcome) (ho : o ≠ .success) :
      EndsWith (step { t with inputs := .tresp o d :: rest }) t t.snap (failureWord o (fieldIndex t.idx)) rest :=
    failedResponseEndsTheCommand { t with inputs := .tresp o d :: rest } o d rest hb ho rfl
  exact ⟨hsuccess d rest, hfails .failure (by decide), hfails .timeout (by decide)⟩

/-- A waiting field read stores the decoded byte and returns it (R180; R34, row `RD`). -/
theorem answeredWith_of_rd {t : State} (hb : t.busy = true) (ho : t.op = .rd) :
    AnsweredWith t (fieldIndex t.idx) t.snap (fun d => t.snap.set t.idx (fdec t.idx d))
      fun d => (fdec t.idx d).setWidth 16 := by
  refine answeredWith_of_success hb fun d rest => ?_
  obtain ⟨hrd, _⟩ := successfulResponseByKind { t with inputs := .tresp .success d :: rest } d rest hb rfl
  exact hrd ho

/-- An `RDx` in full, for any form `v` of the field's decoder (R180). -/
theorem rdOf_spec (f : Field) (s : State) {v : Byte → Byte} (hv : ∀ b, fdec f b = v b) :
    encode (rdOf f) = BitVec.ofNat 16 (0x6000 + 0x100 * fieldIndex f) ∧
    WaitsWith (exec (rdOf f) s) s s.snap .rd f (readAt (addr f)) s.inputs ∧
    ∀ t, exec (rdOf f) s = .next t →
      AnsweredWith t (fieldIndex f) s.snap (fun b => s.snap.set f (v b)) fun b => (v b).setWidth 16 := by
  obtain rfl : fdec f = v := funext hv
  rw [exec_rdOf]
  refine ⟨encode_rdOf f, waitsWith_issueRead .rd f s, ?_⟩
  rintro t ⟨⟩
  exact answeredWith_of_rd (t := issueRead .rd f s) rfl rfl

/-- Settles O16: the seven fields' rows of one fact, with the masks of R120. -/
theorem readsAskMaskAndStore : Obligations.ReadsAskMaskAndStore := by
  intro s _
  have hfdec := fdec_eq
  simp only [forall_and] at hfdec
  obtain ⟨hsec, hmin, hhr, hwd, hdt, hmon, hyr⟩ := hfdec
  exact ⟨rdOf_spec .sec s hsec, rdOf_spec .min s hmin, rdOf_spec .hr s hhr, rdOf_spec .wd s hwd, rdOf_spec .dt s hdt,
    rdOf_spec .mon s hmon, rdOf_spec .yr s hyr⟩

end Sys2Proof.Machine

namespace Sys2Proof.Machine

/-! The seven field write commands (R200 to R208). -/

theorem encode_wrOf (f : Field) : encode (wrOf f) = BitVec.ofNat 16 (0x7000 + 0x100 * fieldIndex f) := by
  cases f <;> rfl

theorem exec_wrOf (f : Field) (s : State) : exec (wrOf f) s = .next (writeField f s) := by cases f <;> rfl

theorem waitsWith_issueFieldWrite (op : SeqOp) (f : Field) (s : State) :
    WaitsWith (.next (issueFieldWrite op f s)) s s.snap op f (writeAt (addr f) (fenc f (s.snap.get f))) s.inputs :=
  ⟨_, rfl, rfl, rfl, rfl, rfl, rfl, rfl, rfl⟩

/-- A waiting field write ends with result 0 and stores nothing (R200; R34, row `WR`). -/
theorem answeredWith_of_wr {t : State} (hb : t.busy = true) (ho : t.op = .wr) :
    AnsweredWith t (fieldIndex t.idx) t.snap (fun _ => t.snap) fun _ => 0x0000#16 := by
  refine answeredWith_of_success hb fun d rest => ?_
  obtain ⟨_, hwr, _⟩ := successfulResponseByKind { t with inputs := .tresp .success d :: rest } d rest hb rfl
  exact hwr ho

/-- A `WRx` in full, for any form `P` of the field's range check and any form `b` of the byte encoded (R200). -/
theorem wrOf_spec (f : Field) (s : State) {P : Prop} {b : Byte} (hP : inrange f (s.snap.get f) = true ↔ P)
    (hb : fenc f (s.snap.get f) = b) :
    encode (wrOf f) = BitVec.ofNat 16 (0x7000 + 0x100 * fieldIndex f) ∧
    (¬P → EndsWith (exec (wrOf f) s) s s.snap (exceptionWord (.outOfRangeValue f)) s.inputs) ∧
    (P → WaitsWith (exec (wrOf f) s) s s.snap .wr f (writeAt (addr f) b) s.inputs ∧
      ∀ t, exec (wrOf f) s = .next t → AnsweredWith t (fieldIndex f) s.snap (fun _ => s.snap) fun _ => 0x0000#16) := by
  subst hb
  refine ⟨encode_wrOf f, ?_⟩
  rw [exec_wrOf]
  rcases writeField_cases f s with ⟨hin, hsent⟩ | ⟨hout, hrefused⟩
  · have hp : P := hP.1 hin
    rw [hsent]
    refine ⟨absurd hp, fun _ => ⟨waitsWith_issueFieldWrite .wr f s, ?_⟩⟩
    rintro t ⟨⟩
    exact answeredWith_of_wr (t := issueFieldWrite .wr f s) rfl rfl
  · have hp : ¬P := hP.not.1 (by simp [hout])
    rw [hrefused]
    exact ⟨fun _ => endsWith_raise _ s, fun h => absurd h hp⟩

/-- Settles O17: the seven fields' rows of one fact, with the bounds of R21 and the forced bits of R122. -/
theorem writesCheckEncodeAndSend : Obligations.WritesCheckEncodeAndSend := by
  intro s _
  have hfenc := fenc_eq
  simp only [forall_and] at hfenc
  obtain ⟨hsec, hmin, hhr, hwd, hdt, hmon, hyr⟩ := hfenc
  exact ⟨wrOf_spec .sec s (inrange_iff_of_fieldLo_zero _ rfl) (hsec _),
    wrOf_spec .min s (inrange_iff_of_fieldLo_zero _ rfl) (hmin _),
    wrOf_spec .hr s (inrange_iff_of_fieldLo_zero _ rfl) (hhr _),
    wrOf_spec .wd s (inrange_iff_of_fieldLo_zero _ rfl) (hwd _),
    wrOf_spec .dt s (inrange_iff .dt _) (hdt _), wrOf_spec .mon s (inrange_iff .mon _) (hmon _),
    wrOf_spec .yr s (inrange_iff_of_fieldLo_zero _ rfl) (hyr _)⟩

/-! Write then read (R208). -/

@[simp] theorem Snapshot.set_set_same (S : Snapshot) (f : Field) (v v' : Byte) : (S.set f v).set f v' = S.set f v' := by
  cases f <;> rfl

theorem lastWritten_append_writeAt (reqs : List Request) (a b : Byte) :
    lastWritten (reqs ++ [writeAt a b]) a = some b := by
  simp [lastWritten, writeAt]

/-- An idle block runs the command whose word is presented first (R30, R71). -/
theorem step_encode {s : State} {i : Instr} {rest : List Event} (hidle : Idle s)
    (hin : s.inputs = .cmd (encode i) :: rest) : step s = exec i { s with inputs := rest } :=
  stepRunsTheDecodedCommand s (encode i) i rest hidle hin (decodeOfEncodeIsIdentity i)

/-- A command that waits with one request, and its successful answer, as two steps (R31, R32, R34). -/
theorem steps_two_endsWith {s : State} {i : Instr} {d : Byte} {rest : List Event} {op : SeqOp} {f : Field} {r : Request}
    {n : Nat} {S₀ : Snapshot} {S : Byte → Snapshot} {w : Byte → ResultWord} (hidle : Idle s)
    (hin : s.inputs = .cmd (encode i) :: .tresp .success d :: rest)
    (hwaits : WaitsWith (exec i { s with inputs := .tresp .success d :: rest }) s S₀ op f r (.tresp .success d :: rest))
    (hanswered : ∀ t, exec i { s with inputs := .tresp .success d :: rest } = .next t → AnsweredWith t n S₀ S w) :
    EndsWith (steps 2 s) { s with treqOut := s.treqOut ++ [r] } (S d) (w d) rest := by
  obtain ⟨u, hu, _, _, _, _, hinputs, hrequest, hresults⟩ := hwaits
  obtain ⟨hsuccess, _⟩ := hanswered u hu d rest
  obtain ⟨t, ht, hsnap, hbusy, hleft, hsent, hresult⟩ := hsuccess
  rw [← hinputs] at ht
  have hsteps : steps 2 s = .next t :=
    (steps_succ_of_step 1 ((step_encode hidle hin).trans hu)).trans (steps_succ_of_step 0 ht)
  exact ⟨t, hsteps, hsnap, hbusy, hleft, hsent.trans hrequest, hresult.trans (hresults ▸ rfl)⟩

/-- A field write in range and its successful answer (R200). -/
theorem steps_two_wrOf {s : State} {f : Field} {d : Byte} {rest : List Event} (hidle : Idle s)
    (hin : s.inputs = .cmd (encode (wrOf f)) :: .tresp .success d :: rest) (hrange : inrange f (s.snap.get f) = true) :
    EndsWith (steps 2 s) { s with treqOut := s.treqOut ++ [writeAt (addr f) (fenc f (s.snap.get f))] } s.snap 0x0000#16
      rest := by
  obtain ⟨_, _, hwrite⟩ := wrOf_spec f { s with inputs := .tresp .success d :: rest } Iff.rfl rfl
  obtain ⟨hwaits, hanswered⟩ := hwrite hrange
  exact steps_two_endsWith hidle hin hwaits hanswered

/-- A field read and its successful answer (R180). -/
theorem steps_two_rdOf {s : State} {f : Field} {d : Byte} {rest : List Event} (hidle : Idle s)
    (hin : s.inputs = .cmd (encode (rdOf f)) :: .tresp .success d :: rest) :
    EndsWith (steps 2 s) { s with treqOut := s.treqOut ++ [readAt (addr f)] } (s.snap.set f (fdec f d))
      ((fdec f d).setWidth 16) rest := by
  obtain ⟨_, hwaits, hanswered⟩ := rdOf_spec f { s with inputs := .tresp .success d :: rest } fun _ => rfl
  exact (steps_two_endsWith hidle hin hwaits hanswered :)

/-- Settles O18: the load stores v, the write sends its encoding and keeps it, and the read decodes that byte to v. -/
theorem writeThenReadReturnsTheValue : Obligations.WriteThenReadReturnsTheValue := by
  intro f v d s rest hidle hv hin
  obtain ⟨_, hload, _⟩ := ldOf_spec f v { s with inputs := .cmd (encode (wrOf f)) :: .tresp .success d :: rest } Iff.rfl
  obtain ⟨u, hu, hstored, hfree, hinputs, _, _⟩ := hload hv
  have hget : u.snap.get f = v := by rw [hstored, Snapshot.get_set_same]
  obtain ⟨t, ht, hkept, hended, hleft, hsent, _⟩ := steps_two_wrOf hfree hinputs (by rw [hget, hv])
  have hsteps : steps 3 s = .next t := (steps_succ_of_step 2 ((step_encode hidle hin).trans hu)).trans ht
  have hlast : lastWritten t.treqOut (addr f) = some (fenc f v) := by rw [hsent, hget, lastWritten_append_writeAt]
  have hset : t.snap.set f v = s.snap.set f v := by rw [hkept, hstored, Snapshot.set_set_same]
  refine ⟨t, fenc f v, hsteps, hended, hleft, hlast, fun rest' => ?_⟩
  have hread := steps_two_rdOf (s := { t with inputs := .cmd (encode (rdOf f)) :: .tresp .success (fenc f v) :: rest' })
    hended rfl
  rwa [fieldRoundTrip f v hv, hset] at hread

end Sys2Proof.Machine

namespace Sys2Proof.Machine

/-! Runs of several steps, and the composite order. -/

theorem steps_add_of_steps {m : Nat} {s t : State} (k : Nat) (h : steps m s = .next t) :
    steps (m + k) s = steps k t := by
  induction m generalizing s with
  | zero =>
    cases h
    rw [Nat.zero_add]
  | succ m ih =>
    rw [Nat.add_right_comm]
    cases hs : step s with
    | next u =>
      rw [steps_succ_of_step _ hs] at h ⊢
      exact ih h
    | fault r => simp [steps, hs] at h
    | refused r => simp [steps, hs] at h

@[simp] theorem steps_one (s : State) : steps 1 s = step s := by
  cases h : step s <;> simp [steps, h]

/-- An end of a command looks at the state before only for what had been emitted. -/
theorem EndsWith.congr {o : StepOutcome} {s s' : State} {S : Snapshot} {w : ResultWord} {inp : List Event}
    (h : EndsWith o s S w inp) (hreq : s.treqOut = s'.treqOut) (hres : s.resOut = s'.resOut) : EndsWith o s' S w inp := by
  obtain ⟨t, ht, hsnap, hbusy, hinp, htreq, htres⟩ := h
  exact ⟨t, ht, hsnap, hbusy, hinp, hreq ▸ htreq, hres ▸ htres⟩

theorem WaitsWith.congr {o : StepOutcome} {s s' : State} {S : Snapshot} {op : SeqOp} {f : Field} {r : Request}
    {inp : List Event} (h : WaitsWith o s S op f r inp) (hreq : s.treqOut = s'.treqOut) (hres : s.resOut = s'.resOut) :
    WaitsWith o s' S op f r inp := by
  obtain ⟨t, ht, hsnap, hbusy, hop, hidx, hinp, htreq, htres⟩ := h
  exact ⟨t, ht, hsnap, hbusy, hop, hidx, hinp, hreq ▸ htreq, hres ▸ htres⟩

/-- The block waits with the snapshot `S` for the answer to `op`'s request of `f`; the inputs to come are `inp`. -/
structure Waiting (t : State) (S : Snapshot) (op : SeqOp) (f : Field) (inp : List Event) : Prop where
  snap : t.snap = S
  busy : t.busy = true
  op : t.op = op
  idx : t.idx = f
  inputs : t.inputs = inp

/-- A run that waits goes on with the step of the state it waits in. -/
theorem WaitsWith.exists_waiting {n : Nat} {s s₀ : State} {S : Snapshot} {op : SeqOp} {f : Field} {r : Request}
    {inp : List Event} (h : WaitsWith (steps n s) s₀ S op f r inp) :
    ∃ t, Waiting t S op f inp ∧ steps (n + 1) s = step t ∧ t.treqOut = s₀.treqOut ++ [r] ∧ t.resOut = s₀.resOut := by
  obtain ⟨t, ht, hsnap, hbusy, hop, hidx, hinp, hreq, hres⟩ := h
  exact ⟨t, ⟨hsnap, hbusy, hop, hidx, hinp⟩, (steps_add_of_steps 1 ht).trans (steps_one t), hreq, hres⟩

theorem map_fieldIndex_compositeOrder : compositeOrder.map fieldIndex = List.range 7 := rfl

/-- The field whose number is `n` (R10). -/
theorem exists_fieldIndex_eq {n : Nat} (h : n ≤ 6) : ∃ f, fieldIndex f = n := by
  have hn : n ∈ compositeOrder.map fieldIndex := by
    rw [map_fieldIndex_compositeOrder, List.mem_range]
    omega
  obtain ⟨f, _, hf⟩ := List.mem_map.1 hn
  exact ⟨f, hf⟩

/-- Each field stands in the order at its own number (R220). -/
theorem compositeOrder_eq_append (f : Field) :
    compositeOrder = compositeOrder.take (fieldIndex f) ++ f :: compositeOrder.drop (fieldIndex f + 1) := by
  cases f <;> rfl

/-- The requests of the fields up to `f` are those of the fields below it, and its own. -/
theorem append_map_take_fieldIndex_succ (l : List Request) (r : Field → Request) (f : Field) :
    l ++ (compositeOrder.take (fieldIndex f)).map r ++ [r f] = l ++ (compositeOrder.take (fieldIndex f + 1)).map r := by
  have htake : compositeOrder.take (fieldIndex f + 1) = compositeOrder.take (fieldIndex f) ++ [f] := by cases f <;> rfl
  rw [htake, List.map_append, List.map_singleton, List.append_assoc]

theorem fieldIndex_lt_of_mem_take {f : Field} {n : Nat} (h : f ∈ compositeOrder.take n) : fieldIndex f < n := by
  have hf : fieldIndex f ∈ (compositeOrder.take n).map fieldIndex := List.mem_map_of_mem h
  rw [List.map_take, map_fieldIndex_compositeOrder, List.take_range, List.mem_range] at hf
  exact lt_of_lt_of_le hf (min_le_left n 7)

/-! What `GETT` and `SETT` have in common (R220, R221). -/

/-- The command `i` accepted in `s` is a composite: it requests `r f` for each field `f` in order, goes on at each
successful answer, and ends with result 0 after the year's; after the answers `ds` the snapshot is `S ds`. -/
structure Composite (i : Instr) (s : State) (op : SeqOp) (r : Field → Request) (S : List Byte → Snapshot) : Prop where
  starts (inp : List Event) : WaitsWith (exec i { s with inputs := inp }) s (S []) op .sec (r .sec) inp
  goesOn {t : State} {ds : List Byte} {d : Byte} {rest : List Event} {f g : Field} (hf : fieldIndex f = ds.length)
    (hg : fieldIndex g = fieldIndex f + 1) (ht : Waiting t (S ds) op f (.tresp .success d :: rest)) :
    WaitsWith (step t) t (S (ds ++ [d])) op g (r g) rest
  ends {t : State} {ds : List Byte} {d : Byte} {rest : List Event} (hlen : ds.length = 6)
    (ht : Waiting t (S ds) op .yr (.tresp .success d :: rest)) : EndsWith (step t) t (S (ds ++ [d])) 0x0000#16 rest

namespace Composite

variable {i : Instr} {s : State} {op : SeqOp} {r : Field → Request} {S : List Byte → Snapshot}

/-- After `k` successful answers a composite waits for the answer of field number `k`. -/
theorem waits (hc : Composite i s op r S) (hidle : Idle s) {ds : List Byte} {rest : List Event} {f : Field}
    (hf : fieldIndex f = ds.length) (hin : s.inputs = .cmd (encode i) :: (answers ds ++ rest)) :
    WaitsWith (steps (ds.length + 1) s) { s with treqOut := s.treqOut ++ (compositeOrder.take (fieldIndex f)).map r }
      (S ds) op f (r f) rest := by
  induction ds using List.reverseRecOn generalizing f rest with
  | nil =>
    obtain rfl : f = .sec := fieldIndex_inj hf
    rw [List.length_nil, Nat.zero_add, steps_one, step_encode hidle hin]
    exact (hc.starts rest).congr (List.append_nil _).symm rfl
  | append_singleton ds d ih =>
    rw [List.length_append, List.length_singleton] at hf ⊢
    obtain ⟨e, he⟩ := exists_fieldIndex_eq (n := ds.length) (by have := fieldIndex_le f; omega)
    obtain ⟨t, ht, hstep, hreq, hres⟩ :=
      (ih (rest := .tresp .success d :: rest) he (by simpa [answers] using hin)).exists_waiting
    rw [hstep, hf, ← he]
    exact (hc.goesOn he (by omega) ht).congr (hreq.trans (append_map_take_fieldIndex_succ _ r e)) hres

/-- An answer that ends a composite at field `f` ends the run from `s`, with the requests up to `f` sent. -/
theorem endsWith_of_answer (hc : Composite i s op r S) (hidle : Idle s) {ds : List Byte} {inp rest : List Event}
    {f : Field} {S' : Snapshot} {w : ResultWord} (hf : fieldIndex f = ds.length)
    (hin : s.inputs = .cmd (encode i) :: (answers ds ++ inp))
    (hlast : ∀ t, Waiting t (S ds) op f inp → EndsWith (step t) t S' w rest) :
    EndsWith (steps (ds.length + 2) s)
      { s with treqOut := s.treqOut ++ (compositeOrder.take (ds.length + 1)).map r } S' w rest := by
  obtain ⟨t, ht, hstep, hreq, hres⟩ := (hc.waits hidle hf hin).exists_waiting
  rw [hstep, ← hf]
  exact (hlast t ht).congr (hreq.trans (append_map_take_fieldIndex_succ _ r f)) hres

/-- A composite whose seven requests succeed ends with result 0 (R222, R226). -/
theorem succeeds (hc : Composite i s op r S) (hidle : Idle s) {ds : List Byte} {rest : List Event}
    (hlen : ds.length = 7) (hin : s.inputs = .cmd (encode i) :: (answers ds ++ rest)) :
    EndsWith (steps 8 s) { s with treqOut := s.treqOut ++ compositeOrder.map r } (S ds) 0x0000#16 rest := by
  rcases List.eq_nil_or_concat' ds with rfl | ⟨ds, d, rfl⟩
  · cases hlen
  · rw [List.length_append, List.length_singleton] at hlen
    have hsix : ds.length = 6 := by omega
    have h := hc.endsWith_of_answer hidle (f := .yr) (inp := .tresp .success d :: rest) hsix.symm
      (by simpa [answers] using hin) fun t => hc.ends hsix
    rwa [hsix] at h

/-- A composite whose request of field number `k` fails ends with the failure word of that field (R223, R227). -/
theorem stops (hc : Composite i s op r S) (hidle : Idle s) {ds : List Byte} {o : TransportOutcome} {d : Byte}
    {rest : List Event} (hlen : ds.length ≤ 6) (ho : o ≠ .success)
    (hin : s.inputs = .cmd (encode i) :: (answers ds ++ .tresp o d :: rest)) :
    EndsWith (steps (ds.length + 2) s)
      { s with treqOut := s.treqOut ++ (compositeOrder.take (ds.length + 1)).map r } (S ds) (failureWord o ds.length)
      rest := by
  obtain ⟨f, hf⟩ := exists_fieldIndex_eq hlen
  refine hc.endsWith_of_answer hidle hf hin fun t ht => ?_
  have hfails := failedResponseEndsTheCommand t o d rest ht.busy ho ht.inputs
  rwa [ht.snap, ht.idx, hf] at hfails

end Composite

/-! `GETT` (R222, R223). -/

/-- The value of `S[f]` after `GETT` has read the bytes `ds`: decoded when its byte is among them, else as it was. -/
def valueAfterReads (S : Snapshot) (ds : List Byte) (f : Field) : Byte :=
  match ds[fieldIndex f]? with
  | some b => fdec f b
  | none => S.get f

/-- The snapshot after `GETT` has read the bytes `ds`. -/
def afterReads (S : Snapshot) (ds : List Byte) : Snapshot where
  sec := valueAfterReads S ds .sec
  min := valueAfterReads S ds .min
  hr := valueAfterReads S ds .hr
  wd := valueAfterReads S ds .wd
  dt := valueAfterReads S ds .dt
  mon := valueAfterReads S ds .mon
  yr := valueAfterReads S ds .yr

theorem get_afterReads (S : Snapshot) (ds : List Byte) (f : Field) :
    (afterReads S ds).get f = valueAfterReads S ds f := by cases f <;> rfl

theorem get_afterReads_of_read {S : Snapshot} {ds : List Byte} {f : Field} {b : Byte} (h : ds[fieldIndex f]? = some b) :
    (afterReads S ds).get f = fdec f b := by
  rw [get_afterReads, valueAfterReads, h]

theorem get_afterReads_of_not_read {S : Snapshot} {ds : List Byte} {f : Field} (h : ds.length ≤ fieldIndex f) :
    (afterReads S ds).get f = S.get f := by
  rw [get_afterReads, valueAfterReads, List.getElem?_eq_none h]

/-- One more byte read is stored in the next field (R34, row `GETT`). -/
theorem set_afterReads {S : Snapshot} {ds : List Byte} {f : Field} (d : Byte) (h : fieldIndex f = ds.length) :
    (afterReads S ds).set f (fdec f d) = afterReads S (ds ++ [d]) := by
  apply Snapshot.ext_get
  intro g
  by_cases hg : g = f
  · subst hg
    have hd : (ds ++ [d])[fieldIndex g]? = some d := by rw [h, List.getElem?_concat_length]
    rw [Snapshot.get_set_same, get_afterReads_of_read hd]
  · have hne : fieldIndex g ≠ ds.length := fun he => hg (fieldIndex_inj (he.trans h.symm))
    have hsame : (ds ++ [d])[fieldIndex g]? = ds[fieldIndex g]? := by grind
    rw [Snapshot.get_set_ne _ _ hg, get_afterReads, get_afterReads, valueAfterReads, valueAfterReads, hsame]

/-- Seven bytes read leave nothing of the snapshot before. -/
theorem afterReads_seven (S : Snapshot) (b0 b1 b2 b3 b4 b5 b6 : Byte) :
    afterReads S [b0, b1, b2, b3, b4, b5, b6] =
      ⟨fdec .sec b0, fdec .min b1, fdec .hr b2, fdec .wd b3, fdec .dt b4, fdec .mon b5, fdec .yr b6⟩ := rfl

theorem composite_gett (s : State) :
    Composite .gett s .gett (fun f => readAt (addr f)) (afterReads s.snap) where
  starts inp := waitsWith_issueRead .gett .sec { s with inputs := inp }
  goesOn {t ds d rest f g} hf hg ht := by
    obtain ⟨_, _, _, _, hnext, _⟩ := successfulResponseByKind t d rest ht.busy ht.inputs
    rw [← set_afterReads d hf, ← ht.snap, ← ht.idx]
    exact hnext ht.op g (ht.idx ▸ hg)
  ends {t ds d rest} hlen ht := by
    obtain ⟨_, _, _, hlast, _⟩ := successfulResponseByKind t d rest ht.busy ht.inputs
    rw [← set_afterReads (f := .yr) d hlen.symm, ← ht.snap]
    exact hlast ht.op ht.idx

/-- Settles O20: a composite that succeeds, with the masks of R120. -/
theorem gettReadsTheSevenFieldsInOrder : Obligations.GettReadsTheSevenFieldsInOrder := by
  intro s b0 b1 b2 b3 b4 b5 b6 rest hidle hin
  obtain ⟨t, ht, hsnap, hbusy, hinp, hreq, hres⟩ := (composite_gett s).succeeds hidle rfl hin
  have hfdec := fdec_eq
  simp only [forall_and] at hfdec
  obtain ⟨hsec, hmin, hhr, hwd, hdt, hmon, hyr⟩ := hfdec
  rw [afterReads_seven, hsec, hmin, hhr, hwd, hdt, hmon, hyr] at hsnap
  exact ⟨t, ht, hsnap, hbusy, hinp, hres, hreq⟩

/-- Settles O21: a composite that stops; the fields read are those whose byte came. -/
theorem gettStopsAtTheFirstFailure : Obligations.GettStopsAtTheFirstFailure := by
  intro s ds o d rest hidle hlen ho hin
  obtain ⟨t, ht, hsnap, hbusy, hinp, hreq, hres⟩ := (composite_gett s).stops hidle hlen ho hin
  refine ⟨t, ht, fun f b hb => ?_, fun f hf => ?_, hbusy, hinp, hres, hreq⟩
  · rw [hsnap, get_afterReads_of_read hb]
  · rw [hsnap, get_afterReads_of_not_read hf]

/-! `SETT` (R226, R227, R228). -/

theorem exec_sett (s : State) : exec .sett s = .next (startSett s) := rfl

/-- With every field in range `SETT` waits with the seconds' write (R226). -/
theorem waitsWith_exec_sett {s : State} (h : AllInRange s.snap) :
    WaitsWith (exec .sett s) s s.snap .sett .sec (writeAt (addr .sec) (fenc .sec (s.snap.get .sec))) s.inputs := by
  rw [exec_sett, startSett, (firstOutOfRange_none s.snap).2 h]
  exact waitsWith_issueFieldWrite .sett .sec s

/-- The field reported is the first one out of range (R228). -/
theorem firstOutOfRange_eq_some {S : Snapshot} {f : Field} (hf : inrange f (S.get f) = false)
    (hbelow : ∀ g, fieldIndex g < fieldIndex f → inrange g (S.get g) = true) : firstOutOfRange S = some f := by
  refine List.find?_eq_some_iff_append.2 ⟨by simp [hf], _, _, compositeOrder_eq_append f, fun g hg => ?_⟩
  simp [hbelow g (fieldIndex_lt_of_mem_take hg)]

/-- Settles O22: the check finds nothing, or the field that was given. -/
theorem settChecksAllBeforeTheFirstWrite : Obligations.SettChecksAllBeforeTheFirstWrite := by
  intro s _
  refine ⟨rfl, fun hall => ?_, fun f hf hbelow => ?_⟩
  · obtain ⟨hsec, _⟩ := fenc_eq s.snap.sec
    exact hsec ▸ waitsWith_exec_sett hall
  · rw [exec_sett, startSett, firstOutOfRange_eq_some hf hbelow, ← outOfRangeWord_eq]
    exact endsWith_raise _ s

theorem composite_sett {s : State} (hall : AllInRange s.snap) :
    Composite .sett s .sett (fun f => writeAt (addr f) (fenc f (s.snap.get f))) fun _ => s.snap where
  starts inp := waitsWith_exec_sett (s := { s with inputs := inp }) hall
  goesOn {t ds d rest f g} _ hg ht := by
    obtain ⟨_, _, _, _, _, _, hnext⟩ := successfulResponseByKind t d rest ht.busy ht.inputs
    rw [← ht.snap]
    exact hnext ht.op g (ht.idx ▸ hg)
  ends {t ds d rest} _ ht := by
    obtain ⟨_, _, _, _, _, hlast, _⟩ := successfulResponseByKind t d rest ht.busy ht.inputs
    rw [← ht.snap]
    exact hlast ht.op ht.idx

/-- Settles O23: a composite that succeeds, with the forced bits of R122. -/
theorem settWritesTheSevenFieldsInOrder : Obligations.SettWritesTheSevenFieldsInOrder := by
  intro s ds rest hidle hall hlen hin
  obtain ⟨t, ht, hsnap, hbusy, hinp, hreq, hres⟩ := (composite_sett hall).succeeds hidle hlen hin
  have hfenc := fenc_eq
  simp only [forall_and] at hfenc
  obtain ⟨hsec, hmin, hhr, hwd, hdt, hmon, hyr⟩ := hfenc
  simp only [compositeOrder, List.map_cons, List.map_nil, hsec, hmin, hhr, hwd, hdt, hmon, hyr] at hreq
  exact ⟨t, ht, hsnap, hbusy, hinp, hres, hreq⟩

/-- Settles O24: a composite that stops. -/
theorem settStopsAtTheFirstFailure : Obligations.SettStopsAtTheFirstFailure := by
  intro s ds o d rest hidle hall hlen ho hin
  obtain ⟨t, ht, hsnap, hbusy, hinp, hreq, hres⟩ := (composite_sett hall).stops hidle hlen ho hin
  exact ⟨t, ht, hsnap, hbusy, hinp, hres, hreq⟩

/-! The seven field commands one after the other, each with its answer (R229). -/

/-- The word of each command `c f` and its successful answer, as input events. -/
def answeredCommands (c : Field → Instr) (ps : List (Field × Byte)) : List Event :=
  ps.flatMap fun p => [.cmd (encode (c p.1)), .tresp .success p.2]

/-- The commands `c f` do, one at a time, what a composite with the requests `r` and the snapshots `S` does (R229). -/
def EachDoes (c : Field → Instr) (r : Field → Request) (S : List Byte → Snapshot) : Prop :=
  ∀ {t : State} {ds : List Byte} {d : Byte} {rest : List Event} {f : Field}, fieldIndex f = ds.length → Idle t →
    t.snap = S ds → t.inputs = .cmd (encode (c f)) :: .tresp .success d :: rest →
    ∃ w, EndsWith (steps 2 t) { t with treqOut := t.treqOut ++ [r f] } (S (ds ++ [d])) w rest

/-- Commands for fields with consecutive numbers, from the number of the bytes `done` on. -/
theorem EachDoes.all {c : Field → Instr} {r : Field → Request} {S : List Byte → Snapshot} (hc : EachDoes c r S)
    {ps : List (Field × Byte)} {done : List Byte} {s : State}
    (hps : ps.map (fun p => fieldIndex p.1) = List.range' done.length ps.length) (hidle : Idle s) (hsnap : s.snap = S done)
    (hin : s.inputs = answeredCommands c ps) :
    ∃ t, steps (2 * ps.length) s = .next t ∧ t.snap = S (done ++ ps.map Prod.snd) ∧ t.busy = false ∧
      t.treqOut = s.treqOut ++ ps.map fun p => r p.1 := by
  induction ps generalizing done s with
  | nil => exact ⟨s, rfl, by simpa using hsnap, hidle, by simp⟩
  | cons p ps ih =>
    rw [List.map_cons, List.length_cons, List.range'_succ, List.cons.injEq] at hps
    obtain ⟨hp, hps⟩ := hps
    obtain ⟨_, u, hu, husnap, hubusy, huin, hureq, _⟩ := hc hp hidle hsnap hin
    obtain ⟨t, ht, htsnap, htbusy, htreq⟩ := ih (done := done ++ [p.2]) (by simpa using hps) hubusy husnap huin
    have hsteps : steps (2 * (ps.length + 1)) s = .next t := by
      rw [Nat.mul_succ, Nat.add_comm, steps_add_of_steps _ hu, ht]
    exact ⟨t, hsteps, by simpa using htsnap, htbusy, by simp [htreq, hureq]⟩

/-- A composite agrees with the seven field commands that do its parts, one for each field in order (R229). -/
theorem Composite.agrees_with_field_commands {i : Instr} {s : State} {op : SeqOp} {r : Field → Request}
    {S : List Byte → Snapshot} {c : Field → Instr} (hi : ∀ inp, Composite i { s with inputs := inp } op r S)
    (hc : EachDoes c r S) (hidle : Idle s) (hsnap : s.snap = S []) {ps : List (Field × Byte)}
    (hps : ps.map Prod.fst = compositeOrder) {one seven : List Event}
    (hone : one = .cmd (encode i) :: answers (ps.map Prod.snd)) (hseven : seven = answeredCommands c ps) :
    ∃ t u, steps 8 { s with inputs := one } = .next t ∧ steps 14 { s with inputs := seven } = .next u ∧
      t.snap = u.snap ∧ t.treqOut = u.treqOut ∧ t.busy = u.busy := by
  have hlen : ps.length = 7 := by simpa [compositeOrder] using congrArg List.length hps
  have hnumbers : ps.map (fun p => fieldIndex p.1) = List.range' 0 ps.length := by
    rw [hlen, ← List.range_eq_range', ← map_fieldIndex_compositeOrder, ← hps, List.map_map, Function.comp_def]
  obtain ⟨t, ht, htsnap, htbusy, _, htreq, _⟩ :=
    (hi one).succeeds hidle (ds := ps.map Prod.snd) (rest := []) (by rw [List.length_map, hlen])
      (by rw [List.append_nil, hone])
  obtain ⟨u, hu, husnap, hubusy, hureq⟩ :=
    hc.all (done := []) (s := { s with inputs := seven }) hnumbers hidle hsnap hseven
  have hsent : compositeOrder.map r = ps.map fun p => r p.1 := by rw [← hps, List.map_map, Function.comp_def]
  rw [hlen] at hu
  exact ⟨t, u, ht, hu, htsnap.trans husnap.symm, by rw [htreq, hureq, hsent], htbusy.trans hubusy.symm⟩

theorem eachDoes_rdOf (S : Snapshot) : EachDoes rdOf (fun f => readAt (addr f)) (afterReads S) := by
  intro t ds d rest f hf hidle hsnap hin
  have hread := steps_two_rdOf hidle hin
  rw [hsnap, set_afterReads d hf] at hread
  exact ⟨_, hread⟩

theorem eachDoes_wrOf {S : Snapshot} (hall : AllInRange S) :
    EachDoes wrOf (fun f => writeAt (addr f) (fenc f (S.get f))) fun _ => S := by
  intro t ds d rest f _ hidle hsnap hin
  subst hsnap
  exact ⟨_, steps_two_wrOf hidle hin (hall f)⟩

/-- Settles O25: each read does one part of `GETT`. -/
theorem gettAgreesWithSevenReads : Obligations.GettAgreesWithSevenReads := by
  intro s b0 b1 b2 b3 b4 b5 b6 hidle
  exact Composite.agrees_with_field_commands (fun inp => composite_gett { s with inputs := inp }) (eachDoes_rdOf s.snap)
    hidle rfl (ps := [(.sec, b0), (.min, b1), (.hr, b2), (.wd, b3), (.dt, b4), (.mon, b5), (.yr, b6)]) rfl rfl
    (by simp [answeredCommands, encode_rdOf, fieldIndex])

/-- Settles O26: each write does one part of `SETT`. -/
theorem settAgreesWithSevenWrites : Obligations.SettAgreesWithSevenWrites := by
  intro s b0 b1 b2 b3 b4 b5 b6 hidle hall
  exact Composite.agrees_with_field_commands (fun inp => composite_sett (s := { s with inputs := inp }) hall)
    (eachDoes_wrOf hall) hidle rfl
    (ps := [(.sec, b0), (.min, b1), (.hr, b2), (.wd, b3), (.dt, b4), (.mon, b5), (.yr, b6)]) rfl rfl
    (by simp [answeredCommands, encode_wrOf, fieldIndex])

end Sys2Proof.Machine

namespace Sys2Proof.Machine

/-! `INIT` (R240 to R243). -/

/-- The state `INIT` waits in: the snapshot already reset, one write on the wire (R240). -/
theorem exec_init (s : State) :
    exec .init s = .next (issueWrite .init .sec 0x80#8 { s with snap := ⟨0, 0, 0, 0, 1, 1, 0⟩ }) := rfl

/-- A waiting `INIT` ends with result 0 and stores nothing (R240; R34, row `INIT`). -/
theorem answeredWith_of_init {t : State} (hb : t.busy = true) (ho : t.op = .init) :
    AnsweredWith t (fieldIndex t.idx) t.snap (fun _ => t.snap) fun _ => 0x0000#16 := by
  refine answeredWith_of_success hb fun d rest => ?_
  obtain ⟨_, _, hinit, _⟩ := successfulResponseByKind { t with inputs := .tresp .success d :: rest } d rest hb rfl
  exact hinit ho

/-- Settles O28: the first step issues the write, and no answer to it touches the snapshot. -/
theorem initResetsAndStartsTheOscillator : Obligations.InitResetsAndStartsTheOscillator := by
  intro s _
  rw [exec_init]
  refine ⟨rfl, ⟨_, rfl, rfl, rfl, rfl, rfl, rfl, rfl, rfl⟩, ?_⟩
  rintro t ⟨⟩
  exact answeredWith_of_init (t := issueWrite .init .sec 0x80#8 { s with snap := ⟨0, 0, 0, 0, 1, 1, 0⟩ }) rfl rfl

/-- `INIT` and the successful answer to its write, as two steps (R240). -/
theorem steps_two_init {s : State} {d : Byte} {rest : List Event} (hidle : Idle s)
    (hin : s.inputs = .cmd (encode .init) :: .tresp .success d :: rest) :
    EndsWith (steps 2 s) { s with treqOut := s.treqOut ++ [writeAt 0x00#8 0x80#8] } ⟨0, 0, 0, 0, 1, 1, 0⟩ 0x0000#16
      rest := by
  obtain ⟨_, hwaits, hanswered⟩ :=
    initResetsAndStartsTheOscillator { s with inputs := .tresp .success d :: rest } hidle
  exact steps_two_endsWith hidle hin hwaits hanswered

/-- Settles O30: `GETT` keeps nothing of the snapshot `INIT` left; only the seconds' byte, the one written, is known. -/
theorem initThenGettReadsThePeripheral : Obligations.InitThenGettReadsThePeripheral := by
  intro s d b1 b2 b3 b4 b5 b6 rest hidle hin
  obtain ⟨u, hu, _, hfree, hleft, _, huresult⟩ := steps_two_init hidle hin
  obtain ⟨t, ht, hsnap, _, hinputs, hresult, _⟩ :=
    gettReadsTheSevenFieldsInOrder u 0x80#8 b1 b2 b3 b4 b5 b6 rest hfree hleft
  have hsec : dec (0x80#8 &&& 0x7F#8) = 0 := by decide
  rw [hsec] at hsnap
  refine ⟨t, (steps_add_of_steps 8 hu).trans ht, by simp [hresult, huresult], hinputs, hsnap, ?_, ?_⟩
  · rintro rfl rfl hwd rfl rfl rfl
    rw [hsnap, hwd]
    decide
  · rintro rfl
    have hdate : dec 0x00#8 = 0 := by decide
    rw [hsnap, hdate]

theorem writeField_of_inrange {f : Field} {s : State} (h : inrange f (s.snap.get f) = true) :
    writeField f s = issueFieldWrite .wr f s := by
  rcases writeField_cases f s with ⟨_, hsent⟩ | ⟨hout, _⟩
  · exact hsent
  · simp [h] at hout

/-- From the reset snapshot `WRSEC` sends the byte that `INIT` sends: the reset seconds are in range, and 0x80 is their
encoding (R242). -/
theorem writeField_sec_of_reset {s : State} (h : s.snap = resetSnapshot) :
    writeField .sec s = issueWrite .wr .sec 0x80#8 s := by
  have hget : s.snap.get .sec = rst .sec := by rw [h, get_resetSnapshot]
  have hfenc : fenc .sec (rst .sec) = 0x80#8 := by decide
  rw [writeField_of_inrange (by rw [hget, inrange_rst]), issueFieldWrite, hget, hfenc]

/-- Settles O29: both issue the write of 0x80 at the seconds, each as its own kind of command. -/
theorem initIsResetThenSecondsWrite : Obligations.InitIsResetThenSecondsWrite := by
  intro s _
  refine ⟨_, _, exec_init s, exec_wrOf .sec _, ?_⟩
  rw [writeField_sec_of_reset rfl]
  rfl

end Sys2Proof.Machine

namespace Sys2Proof.Machine

/-! What an accepted command does not look at: the result words emitted before it (R38, R259). -/

/-- `g` appends to the result words and otherwise does the same whatever words stand there already. -/
def AppendsResults (g : State → State) : Prop :=
  ∀ s, ∃ ws, ∀ rs, g { s with resOut := rs } = { g s with resOut := rs ++ ws }

theorem AppendsResults.of_results_kept {g : State → State}
    (h : ∀ s rs, g { s with resOut := rs } = { g s with resOut := rs }) : AppendsResults g :=
  fun s => ⟨[], fun rs => by rw [List.append_nil, h]⟩

theorem appendsResults_finish (v : Byte) : AppendsResults (finish v) := fun _ => ⟨[okWord v], fun _ => rfl⟩

theorem appendsResults_issueRead (op : SeqOp) (f : Field) : AppendsResults (issueRead op f) :=
  .of_results_kept fun _ _ => rfl

theorem appendsResults_loadField (f : Field) (v : Byte) : AppendsResults (loadField f v) := by
  intro s
  cases h : inrange f v <;> simp only [loadField, h]
  · exact ⟨[exceptionWord (.outOfRangeValue f)], fun _ => rfl⟩
  · exact ⟨[okWord v], fun _ => rfl⟩

theorem appendsResults_writeField (f : Field) : AppendsResults (writeField f) := by
  intro s
  cases h : inrange f (s.snap.get f) <;> simp only [writeField, h]
  · exact ⟨[exceptionWord (.outOfRangeValue f)], fun _ => rfl⟩
  · exact ⟨[], fun rs => by rw [List.append_nil]; rfl⟩

theorem appendsResults_startSett : AppendsResults startSett := by
  intro s
  cases h : firstOutOfRange s.snap <;> simp only [startSett, h]
  case none => exact ⟨[], fun rs => by rw [List.append_nil]; rfl⟩
  case some f => exact ⟨[exceptionWord (.outOfRangeValue f)], fun _ => rfl⟩

/-- Every command answers a next state, and not one looks at the result words before its own. -/
theorem exec_appendsResults (i : Instr) : ∃ g, AppendsResults g ∧ ∀ s, exec i s = .next (g s) := by
  cases i with
  | dec | enc | fdecsec | fdecmin | fdechr | fdecwd | fdecdt | fdecmon | fdecyr
  | fencsec | fencmin | fenchr | fencwd | fencdt | fencmon | fencyr =>
    exact ⟨_, appendsResults_finish _, fun _ => rfl⟩
  | ldsec | ldmin | ldhr | ldwd | lddt | ldmon | ldyr => exact ⟨_, appendsResults_loadField _ _, fun _ => rfl⟩
  | rdsec | rdmin | rdhr | rdwd | rddt | rdmon | rdyr | gett =>
    exact ⟨_, appendsResults_issueRead _ _, fun _ => rfl⟩
  | wrsec | wrmin | wrhr | wrwd | wrdt | wrmon | wryr => exact ⟨_, appendsResults_writeField _, fun _ => rfl⟩
  | sett => exact ⟨_, appendsResults_startSett, fun _ => rfl⟩
  | init => exact ⟨_, .of_results_kept fun _ _ => rfl, exec_init⟩

/-- The end by an exception and the end with OK differ in the result words alone (R255). -/
theorem raise_eq_finish_withResults (e : BlockException) (v : Byte) (s : State) :
    raise e s = { finish v s with resOut := (raise e s).resOut } := rfl

/-- Settles O53: the two states differ in their result words alone, and no command looks at those. -/
theorem noExceptionIsSticky : Obligations.NoExceptionIsSticky := by
  intro e v s i
  obtain ⟨g, happends, hexec⟩ := exec_appendsResults i
  obtain ⟨ws, hws⟩ := happends (finish v s)
  have hafterRaise : g (raise e s) = { g (finish v s) with resOut := (raise e s).resOut ++ ws } :=
    raise_eq_finish_withResults e v s ▸ hws (raise e s).resOut
  have hafterOk : (g (finish v s)).resOut = (finish v s).resOut ++ ws :=
    congrArg State.resOut (hws (finish v s).resOut)
  refine ⟨busy_raise e s, g (raise e s), g (finish v s), ws, hexec _, hexec _, ?_⟩
  rw [hafterRaise]
  exact ⟨rfl, rfl, fun _ => ⟨rfl, rfl⟩, rfl, rfl, rfl, hafterOk⟩

end Sys2Proof.Machine

namespace Sys2Proof.Machine

/-! The reset input (R290): the step it takes, and what then becomes of the abandoned request's answer. -/

/-- A reset event that stands first is taken at once, busy or idle (R290). -/
theorem step_of_reset {s : State} {rest : List Event} (h : s.inputs = .reset :: rest) :
    step s = .next (hardwareReset { s with inputs := rest }) :=
  step_takes (e := .reset) (h ▸ takeEvent_reset s.busy rest)

/-- Settles O40: the reset leaves the block idle, and an idle block discards a response (R30). -/
theorem resetInputAbandonsTheCommand : Obligations.ResetInputAbandonsTheCommand := by
  intro s rest hin
  have hidle : Idle (hardwareReset { s with inputs := rest }) := busy_hardwareReset _
  exact ⟨_, step_of_reset hin, rfl, hidle, inputs_hardwareReset _, treqOut_hardwareReset _, resOut_hardwareReset _,
    fun o d rest' hnext => idleResponseIsDiscarded _ o d rest' hidle hnext⟩

end Sys2Proof.Machine

namespace Sys2Proof.Machine

/-! No event stops the block (logs 9 and 13): a command does not, nor does any other event. -/

/-- A command word that decodes runs its command; any other ends with IllegalCommand, which stops nothing (R77, R253). -/
theorem onCommand_answers_next (w : CmdWord) (s : State) : ∃ t, onCommand w s = .next t := by
  unfold onCommand
  cases decode w with
  | error _ => exact ⟨_, rfl⟩
  | ok i =>
    obtain ⟨g, _, hexec⟩ := exec_appendsResults i
    exact ⟨g s, hexec s⟩

theorem onEvent_answers_next (e : Event) (s : State) : ∃ t, onEvent e s = .next t := by
  cases e with
  | cmd w => exact onCommand_answers_next w s
  | tresp | reset => exact ⟨_, rfl⟩

/-- Settles O35: the block waits, or takes an event, and no event stops it. -/
theorem everyStepAnswersNext : Obligations.EveryStepAnswersNext := by
  intro s
  cases h : takeEvent s.busy s.inputs with
  | none => exact ⟨s, step_waits h⟩
  | some taken =>
    rw [step_takes h]
    exact onEvent_answers_next taken.1 { s with inputs := taken.2 }

end Sys2Proof.Machine
